-- ==== Sys2Proof/Word.lean ====
section
/-! DEFINITION. The word types of the block, one width each (00_scope.md R6). Bit vectors are only what the
spec treats as numbers of a width; a cell of the frame buffer is a Bool, false for 0 and true for 1. -/

namespace Sys2Proof

/-- The event word, EVW = 20 bits (30_encoding.md R70). -/
abbrev EventWord := BitVec 20

/-- The result word, RESW = 35 bits (30_encoding.md R76). -/
abbrev ResultWord := BitVec 35

/-- The value field of a result, VALUE_W = 32 bits (30_encoding.md R76, D22). -/
abbrev Value := BitVec 32

/-- A number of ticks, QP_W = 16 bits: QP and TMR (10_state.md R22, R26). -/
abbrev Ticks := BitVec 16

/-- The bit count, CNT_W = 6 bits (10_state.md R24). -/
abbrev Count := BitVec 6

end Sys2Proof
end

