-- ==== Sys2Proof/Syntax.lean ====
section
/-! DEFINITION. The events of the block, one constructor for each row of spec/opcode_table.json. -/

namespace Sys2Proof

/-- An event as 30_encoding.md R73 decodes it. Only BEGIN carries an operand: R72 ignores `arg` for every
other code, and the bit of D0 and D1 is in the code (R80). -/
inductive Instr where
  | nop                   -- R90
  | d0                    -- R91
  | d1                    -- R92
  | tick                  -- R94
  | begin (arg : Ticks)   -- R136
  | stop                  -- R138
  | rsvd6                 -- R140, as the nine below
  | rsvd7
  | rsvd8
  | rsvd9
  | rsvd10
  | rsvd11
  | rsvd12
  | rsvd13
  | rsvd14
  | rsvd15
deriving DecidableEq, Repr

end Sys2Proof
end

