-- ==== Sys2Proof/Trace.lean ====
section
/-! DEFINITION. The lines of an event trace on paper (30_encoding.md R82, R83). What a line presents to the
block is Machine/Assemble.lean. -/

namespace Sys2Proof

/-- A line of a trace: the eight lines of R82 and the four pseudo-instructions of R83. The numbers are the
decimals of the text, so a line can be ill formed (WellFormed.lean). -/
inductive Line where
  | nop
  | d0
  | d1
  | tick
  | begin (n : Nat)
  | beginBare                  -- `BEGIN` without a number
  | stop
  | rsvd (op : Nat)
  | reset
  | bits (bs : List Bool)
  | wait (n : Nat)
  | quiet
  | frame (bs : List Bool)
deriving DecidableEq, Repr

end Sys2Proof
end

