-- ==== Sys2Proof/WellFormed.lean ====
section
/-! DEFINITION. Which events, event words and trace lines are well formed. -/

namespace Sys2Proof

/-- Every term of `Instr` is well formed: the one operand is 16 bits wide by its type, and every 16-bit `arg`
is legal (60_exceptions.md R153, 30_encoding.md R73). No constructor is left out. -/
def Instr.wellFormed : Instr → Bool
  | .nop | .d0 | .d1 | .tick | .begin _ | .stop => true
  | .rsvd6 | .rsvd7 | .rsvd8 | .rsvd9 | .rsvd10 | .rsvd11 | .rsvd12 | .rsvd13 | .rsvd14 | .rsvd15 => true

/-- A number is an event word when it has at most 20 bits (30_encoding.md R70). -/
def isEventWord (n : Nat) : Bool := decide (n < 2 ^ 20)

/-- The ranges of R82: `BEGIN n` with n 0 to 65535, `RSVD op` with op 6 to 15. -/
def Line.wellFormed : Line → Bool
  | .begin n => decide (n ≤ 65535)
  | .rsvd op => decide (6 ≤ op ∧ op ≤ 15)
  | .nop | .d0 | .d1 | .tick | .beginBare | .stop | .reset => true
  | .bits _ | .wait _ | .quiet | .frame _ => true

end Sys2Proof
end

