-- ==== Sys2Proof/Decode.lean ====
section
/-! DEFINITION. From event words to events and back, from 30_encoding.md R70 to R73 and spec/opcode_table.json.
An event is one word of fixed length, so there is no list of bytes to read (R55, R70; log entry 7). -/

namespace Sys2Proof

/-- `op`, bits [19:16] of an event word (R70). -/
def opField (w : EventWord) : BitVec 4 := w.extractLsb' 16 4

/-- `arg`, bits [15:0] of an event word (R70). -/
def argField (w : EventWord) : Ticks := w.extractLsb' 0 16

/-- Decoding is total (R73): the sixteen codes of R71 in the order of their numbers. -/
def decode (w : EventWord) : Instr :=
  #v[.nop, .d0, .d1, .tick, .begin (argField w), .stop, .rsvd6, .rsvd7,
     .rsvd8, .rsvd9, .rsvd10, .rsvd11, .rsvd12, .rsvd13, .rsvd14, .rsvd15][(opField w).toNat]

/-- Why a number is not decoded. -/
inductive DecodeReject where
  /-- The number has more than 20 bits, so it is no event word (R70). Safe: the event port cannot carry it. -/
  | notAnEventWord
deriving DecidableEq, Repr

/-- The decoder on a number of any size: an event word is decoded, anything longer is rejected by name. -/
def decodeNumber (n : Nat) : Except DecodeReject Instr :=
  if isEventWord n then .ok (decode (BitVec.ofNat 20 n)) else .error .notAnEventWord

/-- What the decoder reads from a row's bits as spec/opcode_table.json numbers them: bit 0 of the number is
bit 0 of the event word, and bits from `nbits` up are 0. -/
def decodeTableWord (nbits w : Nat) : Option Instr :=
  (decodeNumber (w % 2 ^ nbits)).toOption

/-- The code of an event (R71). -/
def Instr.op : Instr → BitVec 4
  | .nop => 0
  | .d0 => 1
  | .d1 => 2
  | .tick => 3
  | .begin _ => 4
  | .stop => 5
  | .rsvd6 => 6
  | .rsvd7 => 7
  | .rsvd8 => 8
  | .rsvd9 => 9
  | .rsvd10 => 10
  | .rsvd11 => 11
  | .rsvd12 => 12
  | .rsvd13 => 13
  | .rsvd14 => 14
  | .rsvd15 => 15

/-- The `arg` field that stands for an event: BEGIN's operand, 0 for every other (R82: `arg = 0` except for
`BEGIN n`). -/
def Instr.arg : Instr → Ticks
  | .begin a => a
  | .nop | .d0 | .d1 | .tick | .stop => 0
  | .rsvd6 | .rsvd7 | .rsvd8 | .rsvd9 | .rsvd10 | .rsvd11 | .rsvd12 | .rsvd13 | .rsvd14 | .rsvd15 => 0

/-- The event word `{op, arg}` of an event (R70, R82). -/
def encode (i : Instr) : EventWord := i.op ++ i.arg

/-- A row of spec/opcode_table.json. -/
structure OpcodeRow where
  mnemonic : String
  pattern  : EventWord   -- the table's "match"
  mask     : EventWord
deriving DecidableEq, Repr

/-- The row of spec/opcode_table.json an event belongs to, as the table has it. -/
def Instr.row : Instr → OpcodeRow
  | .nop => ⟨"NOP", 0x00000, 0xF0000⟩
  | .d0 => ⟨"D0", 0x10000, 0xF0000⟩
  | .d1 => ⟨"D1", 0x20000, 0xF0000⟩
  | .tick => ⟨"TICK", 0x30000, 0xF0000⟩
  | .begin _ => ⟨"BEGIN", 0x40000, 0xF0000⟩
  | .stop => ⟨"STOP", 0x50000, 0xF0000⟩
  | .rsvd6 => ⟨"RSVD6", 0x60000, 0xF0000⟩
  | .rsvd7 => ⟨"RSVD7", 0x70000, 0xF0000⟩
  | .rsvd8 => ⟨"RSVD8", 0x80000, 0xF0000⟩
  | .rsvd9 => ⟨"RSVD9", 0x90000, 0xF0000⟩
  | .rsvd10 => ⟨"RSVD10", 0xA0000, 0xF0000⟩
  | .rsvd11 => ⟨"RSVD11", 0xB0000, 0xF0000⟩
  | .rsvd12 => ⟨"RSVD12", 0xC0000, 0xF0000⟩
  | .rsvd13 => ⟨"RSVD13", 0xD0000, 0xF0000⟩
  | .rsvd14 => ⟨"RSVD14", 0xE0000, 0xF0000⟩
  | .rsvd15 => ⟨"RSVD15", 0xF0000, 0xF0000⟩

/-- A word matches a row when the masked bits are the row's pattern. -/
def OpcodeRow.accepts (r : OpcodeRow) (w : EventWord) : Bool := w &&& r.mask == r.pattern

end Sys2Proof
end

