-- ==== Sys2Proof/Config.lean ====
section
/-! DEFINITION. The constants the source fixes (00_scope.md R5) and the capacity the spec decides (R6).
The machine has no free value: the spec leaves no value of the block open. T_TICK, the one OPEN parameter, is
an argument of the functions of Machine/TimeBase.lean, since no rule of the block reads it (R6, R189). -/

namespace Sys2Proof.Config

/-- MIN_LEN: a timeout with fewer buffered bits emits nothing (R5). -/
@[simp] abbrev minLen : Nat := 4

/-- KEYPAD_LEN: the exact length of a keypad frame (R5). -/
@[simp] abbrev keypadLen : Nat := 4

/-- READER_SHORT: the length of the short reader frame (R5). -/
@[simp] abbrev readerShort : Nat := 26

/-- READER_LONG: the length of the long reader frame (R5). -/
@[simp] abbrev readerLong : Nat := 34

/-- BUF_CELLS: how many one-bit cells the frame buffer has (R6, D3). -/
@[simp] abbrev bufCells : Nat := 34

/-- QUIET_DEFAULT: the quiet period, in ticks, of a BEGIN that gives none, and of reset (R5, R80, R175). -/
@[simp] abbrev quietDefault : Nat := 25

end Sys2Proof.Config
end

