-- ==== Sys2Proof/Machine/State.lean ====
section
/-! DEFINITION. The state: the block's six elements (10_state.md R20), and the two ports the block has to the
outside (20_memory.md R50). -/

namespace Sys2Proof.Machine

/-- The lifecycle states (10_state.md R21, 43_lifecycle.md R135): `idle` is LST = 0, `listening` is LST = 1. -/
inductive Lifecycle where
  | idle
  | listening
deriving DecidableEq, Repr

/-- The state record of one decoder instance (10_state.md R20). Nothing else is state of the block. -/
structure Block where
  lst   : Lifecycle                      -- R21
  qp    : Ticks                          -- R22, quiet period in ticks
  buf   : Vector Bool Config.bufCells    -- R23, BUF[i] in arrival order
  cnt   : Count                          -- R24, saturates at 34
  armed : Bool                           -- R25, a timeout is outstanding
  tmr   : Ticks                          -- R26, ticks left
deriving DecidableEq, Repr

/-- The causes of a REJECT result (60_exceptions.md R151). -/
inductive RejectCause where
  | alreadyListening   -- cause 1, BEGIN with LST = 1 (R137)
  | alreadyIdle        -- cause 2, STOP with LST = 0 (R139)
  | reservedCode       -- cause 3, op 6 to 15 (R140)
deriving DecidableEq, Repr

/-- The results (30_encoding.md R77). The types carry the ranges: a keypad value is 0 to 15, a reader value at
most 2^32 - 1, and the kinds 6 and 7 do not exist (R78). The word of a result is in Machine/ResultPort.lean. -/
inductive Result where
  | none
  | keypad (v : BitVec 4)
  | reader (v : Value)
  | ready
  | stopped
  | reject (c : RejectCause)
deriving DecidableEq, Repr

/-- What the environment can present in one step: the reset signal, or one event word (R7, R81). -/
inductive Input where
  | reset
  | event (w : EventWord)
deriving DecidableEq, Repr

/-- The block and its two ports. `inputs` and `result` are no state of the block (R33): the spec makes them
the argument and the value of the step (R7), and the host's form of a step needs them here (log entries 1, 3). -/
structure State where
  block  : Block
  inputs : List Input   -- what the environment will present, next one first
  result : Result       -- the result of the last step
deriving DecidableEq, Repr

/-- The reasons a step can stop with a fault: there are none. No event faults, and the block is never stuck
(30_encoding.md R75, 60_exceptions.md R160, R167). -/
inductive Fault where
deriving DecidableEq, Repr

/-- The reasons an event has no meaning. -/
inductive Refusal where
  /-- An arm of `exec` that has no meaning yet. Every arm has one, so nothing raises it. Safe. -/
  | notModelled (mnemonic : String)
deriving DecidableEq, Repr

/-- The block after reset, every element as 10_state.md R35 and 70_reset_and_hazards.md R175 say. -/
def Block.reset : Block where
  lst   := .idle
  qp    := BitVec.ofNat 16 Config.quietDefault
  buf   := Vector.replicate Config.bufCells false
  cnt   := 0
  armed := false
  tmr   := 0

/-- The machine right after reset: the reset state of R175, its result NONE, and nothing presented yet
(log entries 1, 3). -/
def State.reset : State where
  block  := Block.reset
  inputs := []
  result := .none

end Sys2Proof.Machine
end

