-- ==== Sys2Proof/Machine/Ops.lean ====
section
/-! DEFINITION. The operations every meaning shares: the frame buffer's append, read and clear (20_memory.md
R52 to R54), the edge (40_frame_assembler.md R93), completing a step with its result, refusing a command
(60_exceptions.md R151), and the two ports. -/

namespace Sys2Proof.Machine

/-- What a step answers. -/
abbrev StepOutcome := Host.Outcome State Fault Refusal

/-- Append(b) of R52: write cell CNT and count it, or discard the bit when 34 are held. -/
def Block.append (bit : Bool) (b : Block) : Block :=
  if h : b.cnt.toNat < Config.bufCells then
    { b with buf := b.buf.set b.cnt.toNat bit h, cnt := b.cnt + 1 }
  else b

/-- Clear() of R54: every cell, CNT, ARMED and TMR to 0. -/
def Block.clear (b : Block) : Block :=
  { b with buf := Vector.replicate Config.bufCells false, cnt := 0, armed := false, tmr := 0 }

/-- Edge(b) of R93: append, arm the timer, restart it from the full quiet period. -/
def Block.edge (bit : Bool) (b : Block) : Block :=
  { b.append bit with armed := true, tmr := b.qp }

/-- The prefix read of R53: the cells `BUF[0..n-1]`. -/
def Block.firstCells (b : Block) (n : Nat) : List Bool := b.buf.toList.take n

/-- The read of one cell, `BUF[i]`; an index past the last cell, which no rule uses, reads as 0. -/
def Block.cell (b : Block) (i : Nat) : Bool := b.buf.toList.getD i false

/-- The step ends with block `b` and result `r` (30_encoding.md R79). -/
def State.finish (b : Block) (r : Result) (s : State) : StepOutcome :=
  .next { s with block := b, result := r }

/-- REJECT(c) of R151: the state of the block is unchanged by the step, and the next event is taken normally.
It is the block's whole reaction to a refused event: nothing is saved, no mode changes (R160). -/
def State.reject (c : RejectCause) (s : State) : StepOutcome :=
  s.finish s.block (.reject c)

/-- Reset of R175: the reset state, result NONE, whatever the state was. -/
def State.applyReset (s : State) : StepOutcome :=
  s.finish { s.block.clear with lst := .idle, qp := BitVec.ofNat 16 Config.quietDefault } .none

/-- What the idle event port holds: all zeros, the word of NOP, which "stands for a step in which the
environment has no event to present" (R90, D2; log entry 2). -/
def idleWord : EventWord := 0

/-- The input of this step, and the state with it taken from the event port. -/
def State.nextInput (s : State) : Input × State :=
  match s.inputs with
  | [] => (.event idleWord, s)
  | i :: rest => (i, { s with inputs := rest })

/-- The two input wires as one input: `rst = 1` wins, and the event word is then ignored (R81, R159 a). -/
def inputOfPins (rst : Bool) (ev : EventWord) : Input :=
  if rst then .reset else .event ev

/-- The state whose next input is the event word of the low 20 bits of a table row's bits `w` (of which bits
from `nbits` up are 0); what else the environment will present follows it (log entry 4). -/
def State.presentTableWord (s : State) (nbits w : Nat) : State :=
  { s with inputs := .event (BitVec.ofNat 20 (w % 2 ^ nbits)) :: s.inputs }

end Sys2Proof.Machine
end

