-- ==== Sys2Proof/Machine/Operands.lean ====
section
/-! DEFINITION. How operands and values are assembled (30_encoding.md R80, 00_scope.md R10,
42_parity_validator.md R124, R126). -/

namespace Sys2Proof.Machine

/-- BEGIN's quiet period: `arg`, and the default 25 for `arg = 0` (R80). -/
def quietPeriod (arg : Ticks) : Ticks :=
  if arg = 0 then BitVec.ofNat 16 Config.quietDefault else arg

/-- `val` of R10: the list read as an unsigned number, the first bit the most significant (R9, R55). -/
def val : List Bool → Nat
  | [] => 0
  | b :: bs => b.toNat * 2 ^ bs.length + val bs

/-- `F[a..b]` of R10: the cells `a` to `b` inclusive. -/
def cells (F : List Bool) (a b : Nat) : List Bool := (F.drop a).take (b + 1 - a)

/-- The lengths of a reader frame: the domain of `Validate` and nothing wider (R120, R123, U3). -/
inductive ReaderLength where
  | short   -- READER_SHORT, 26
  | long    -- READER_LONG, 34
deriving DecidableEq, Repr

/-- The number of bits of a reader frame (00_scope.md R5). -/
def ReaderLength.bits : ReaderLength → Nat
  | .short => Config.readerShort
  | .long => Config.readerLong

/-- ReaderValue(F, n) = val(F[1..n-2]), zero-extended to 32 bits (R124). -/
def readerValue (n : ReaderLength) (F : List Bool) : Value :=
  BitVec.ofNat 32 (val (cells F 1 (n.bits - 2)))

/-- KeypadValue(F[0..3]) = val(F[0..3]), 0 to 15 (R126). -/
def keypadValue (F : List Bool) : BitVec 4 :=
  BitVec.ofNat 4 (val (cells F 0 3))

end Sys2Proof.Machine
end

