-- ==== Sys2Proof/Machine/Flags.lean ====
section
/-! DEFINITION. The transient predicates (10_state.md R30): pure functions, evaluated in the timeout step and
stored nowhere. The block has no status flags. -/

namespace Sys2Proof.Machine

/-- `floor_ok`: CNT >= 4 (R30, 40_frame_assembler.md R97). -/
def Block.floorOk (b : Block) : Bool := decide (Config.minLen ≤ b.cnt.toNat)

/-- `is_long`: CNT >= 34 (R30). -/
def Block.isLong (b : Block) : Bool := decide (Config.readerLong ≤ b.cnt.toNat)

/-- `is_short`: 26 <= CNT <= 33 (R30). -/
def Block.isShort (b : Block) : Bool :=
  decide (Config.readerShort ≤ b.cnt.toNat ∧ b.cnt.toNat < Config.readerLong)

/-- `is_keypad`: CNT = 4 (R30, 41_frame_classifier.md R113). -/
def Block.isKeypad (b : Block) : Bool := decide (b.cnt.toNat = Config.keypadLen)

/-- `popcount` of 00_scope.md R10: how many cells are 1. -/
def popcount (L : List Bool) : Nat := L.count true

/-- The midpoint h = n / 2, the first index of the second half (42_parity_validator.md R123). -/
def ReaderLength.half (n : ReaderLength) : Nat := n.bits / 2

/-- `even_ok`: the first half, the leading parity bit included, has an even number of set bits (R121). -/
def evenOk (n : ReaderLength) (F : List Bool) : Bool :=
  popcount (cells F 0 (n.half - 1)) % 2 == 0

/-- `odd_ok`: the second half, the trailing parity bit included, has an odd number of set bits (R122). -/
def oddOk (n : ReaderLength) (F : List Bool) : Bool :=
  popcount (cells F n.half (n.bits - 1)) % 2 == 1

end Sys2Proof.Machine
end

