-- ==== Sys2Proof/Machine/ParityValidator.lean ====
section
/-! DEFINITION. The Parity Validator (42_parity_validator.md R120). -/

namespace Sys2Proof.Machine

/-- Validate(F, n) of R120 on a frame of exactly n bits: the reader value if both parities pass, NONE if
either fails (R125). -/
def validate (n : ReaderLength) (F : List Bool) : Result :=
  if evenOk n F && oddOk n F then .reader (readerValue n F) else .none

end Sys2Proof.Machine
end

