-- ==== Sys2Proof/Machine/Classifier.lean ====
section
/-! DEFINITION. The Frame Classifier (41_frame_classifier.md R110). -/

namespace Sys2Proof.Machine

/-- Classify(BUF, CNT) of R110: the rows in order, longest first, the first match taken, with no fallback
(R115). The rows are R111, R112, R113, R114. -/
def Block.classify (b : Block) : Result :=
  if b.isLong then validate .long (b.firstCells Config.readerLong)
  else if b.isShort then validate .short (b.firstCells Config.readerShort)
  else if b.isKeypad then .keypad (keypadValue (b.firstCells Config.keypadLen))
  else .none

end Sys2Proof.Machine
end

