-- ==== Sys2Proof/Machine/FrameAssembler.lean ====
section
/-! DEFINITION. The Frame Assembler and the Timeout Timer: NOP, D0, D1, TICK (40_frame_assembler.md). -/

namespace Sys2Proof.Machine

/-- The result of Timeout() of R96: the classifier's if at least 4 bits are held, else NONE (R97). -/
def Block.timeoutResult (b : Block) : Result :=
  if b.floorOk then b.classify else .none

/-- Timeout() of R96: the result is read from the block before the step, then everything is cleared. -/
def State.timeout (s : State) : StepOutcome :=
  s.finish s.block.clear s.block.timeoutResult

/-- The step of an edge (R91, R92): `Edge(bit)` while Listening, ignored silently while Idle. -/
def State.onEdge (bit : Bool) (s : State) : StepOutcome :=
  match s.block.lst with
  | .listening => s.finish (s.block.edge bit) .none
  | .idle => s.finish s.block .none

/-- NOP (R90). -/
def execNop (s : State) : StepOutcome := s.finish s.block .none

/-- D0 (R91): a bit 0 arrived. -/
def execD0 (s : State) : StepOutcome := s.onEdge false

/-- D1 (R92): a bit 1 arrived. -/
def execD1 (s : State) : StepOutcome := s.onEdge true

/-- TICK (R94): with LST = 1 and ARMED = 1, count down while TMR > 1 and fire the timeout at TMR = 1; otherwise
nothing. TMR = 0 with ARMED = 1, which no run reaches (R27 V3), fires too: TMR never wraps (log entry 5). -/
def execTick (s : State) : StepOutcome :=
  if s.block.lst = .listening ∧ s.block.armed = true then
    if 1 < s.block.tmr.toNat then s.finish { s.block with tmr := s.block.tmr - 1 } .none
    else s.timeout
  else s.finish s.block .none

end Sys2Proof.Machine
end

