-- ==== Sys2Proof/Machine/Lifecycle.lean ====
section
/-! DEFINITION. The lifecycle events BEGIN and STOP (43_lifecycle.md). -/

namespace Sys2Proof.Machine

/-- BEGIN (R136): from Idle, latch the quiet period and listen; while Listening, REJECT(1) (R137). -/
def execBegin (arg : Ticks) (s : State) : StepOutcome :=
  match s.block.lst with
  | .idle => s.finish { s.block with qp := quietPeriod arg, lst := .listening } .ready
  | .listening => s.reject .alreadyListening

/-- STOP (R138): from Listening, clear the buffer and the timer and go Idle, QP kept; while Idle, REJECT(2)
(R139). -/
def execStop (s : State) : StepOutcome :=
  match s.block.lst with
  | .listening => s.finish { s.block.clear with lst := .idle } .stopped
  | .idle => s.reject .alreadyIdle

end Sys2Proof.Machine
end

