-- ==== Sys2Proof/Machine/Reserved.lean ====
section
/-! DEFINITION. The reserved codes 6 to 15 (43_lifecycle.md R140, 30_encoding.md R74): REJECT(3), no state change, in
both lifecycle states. -/

namespace Sys2Proof.Machine

/-- Code 6 (R140). -/
def execRsvd6 (s : State) : StepOutcome := s.reject .reservedCode

/-- Code 7 (R140). -/
def execRsvd7 (s : State) : StepOutcome := s.reject .reservedCode

/-- Code 8 (R140). -/
def execRsvd8 (s : State) : StepOutcome := s.reject .reservedCode

/-- Code 9 (R140). -/
def execRsvd9 (s : State) : StepOutcome := s.reject .reservedCode

/-- Code 10 (R140). -/
def execRsvd10 (s : State) : StepOutcome := s.reject .reservedCode

/-- Code 11 (R140). -/
def execRsvd11 (s : State) : StepOutcome := s.reject .reservedCode

/-- Code 12 (R140). -/
def execRsvd12 (s : State) : StepOutcome := s.reject .reservedCode

/-- Code 13 (R140). -/
def execRsvd13 (s : State) : StepOutcome := s.reject .reservedCode

/-- Code 14 (R140). -/
def execRsvd14 (s : State) : StepOutcome := s.reject .reservedCode

/-- Code 15 (R140). -/
def execRsvd15 (s : State) : StepOutcome := s.reject .reservedCode

end Sys2Proof.Machine
end

