-- ==== Sys2Proof/Machine/Dispatch.lean ====
section
/-! DEFINITION. One arm for each event. -/

namespace Sys2Proof.Machine

def exec (i : Instr) (s : State) : Host.Outcome State Fault Refusal :=
  match i with
  | .nop => Sys2Proof.Machine.execNop s
  | .d0 => Sys2Proof.Machine.execD0 s
  | .d1 => Sys2Proof.Machine.execD1 s
  | .tick => Sys2Proof.Machine.execTick s
  | .begin arg => Sys2Proof.Machine.execBegin arg s
  | .stop => Sys2Proof.Machine.execStop s
  | .rsvd6 => Sys2Proof.Machine.execRsvd6 s
  | .rsvd7 => Sys2Proof.Machine.execRsvd7 s
  | .rsvd8 => Sys2Proof.Machine.execRsvd8 s
  | .rsvd9 => Sys2Proof.Machine.execRsvd9 s
  | .rsvd10 => Sys2Proof.Machine.execRsvd10 s
  | .rsvd11 => Sys2Proof.Machine.execRsvd11 s
  | .rsvd12 => Sys2Proof.Machine.execRsvd12 s
  | .rsvd13 => Sys2Proof.Machine.execRsvd13 s
  | .rsvd14 => Sys2Proof.Machine.execRsvd14 s
  | .rsvd15 => Sys2Proof.Machine.execRsvd15 s

end Sys2Proof.Machine
end

