-- ==== Sys2Proof/Machine/Step.lean ====
section
/-! DEFINITION. One step: take the next input, and either reset or run the event its word decodes to
(00_scope.md R7, 30_encoding.md R81). -/

namespace Sys2Proof.Machine

/-- One step of the block. -/
def step (s : State) : Host.Outcome State Fault Refusal :=
  match s.nextInput with
  | (.reset, t) => t.applyReset
  | (.event w, t) => exec (decode w) t

/-- The state whose very next step runs the event of the table bits `w` (log entry 4). -/
def State.withFetchWord (s : State) (nbits w : Nat) : State := s.presentTableWord nbits w

end Sys2Proof.Machine
end

