-- ==== Sys2Proof/Machine/Instances.lean ====
section
/-! DEFINITION. Several instances of the block, one for each reader (60_exceptions.md R165, R166). -/

namespace Sys2Proof.Machine

/-- The system of several readers as it starts: one instance for each event port, and "all instances start in the
reset state" (R165). `ports` holds what the environment will present at each (log entries 1, 9). -/
def resetSystem (ports : List (List Input)) : List State :=
  ports.map fun p => { State.reset with inputs := p }

/-- Instance `k` takes one step and the others none: "the product of k copies of the machine with any
interleaving of their steps" (R166), the interleaving being the caller's choice of `k`. There is no instance
past the end of the list, and then nothing happens (log entry 9). -/
def stepInstance (k : Nat) (sys : List State) : Host.Outcome (List State) Fault Refusal :=
  match sys[k]? with
  | Option.none => .next sys
  | some s =>
    match step s with
    | .next t => .next (sys.set k t)
    | .fault f => .fault f
    | .refused r => .refused r

/-- A run of the system: the instances named take one step each, in the order of the list, which is the
interleaving (R166). -/
def runInstances : List Nat → List State → Host.Outcome (List State) Fault Refusal
  | [], sys => .next sys
  | k :: ks, sys =>
    match stepInstance k sys with
    | .next sys' => runInstances ks sys'
    | .fault f => .fault f
    | .refused r => .refused r

/-- `n` steps of one instance alone. -/
def runAlone : Nat → State → Host.Outcome State Fault Refusal
  | 0, s => .next s
  | n + 1, s =>
    match step s with
    | .next t => runAlone n t
    | .fault f => .fault f
    | .refused r => .refused r

end Sys2Proof.Machine
end

