-- ==== Sys2Proof/Machine/ResultPort.lean ====
section
/-! DEFINITION. The result word (30_encoding.md R76, R77, R84). -/

namespace Sys2Proof.Machine

/-- The number of a REJECT cause (60_exceptions.md R151). -/
def RejectCause.code : RejectCause → Value
  | .alreadyListening => 1
  | .alreadyIdle => 2
  | .reservedCode => 3

/-- The `kind` field of a result (R77). -/
def Result.kind : Result → BitVec 3
  | .none => 0
  | .keypad _ => 1
  | .reader _ => 2
  | .ready => 3
  | .stopped => 4
  | .reject _ => 5

/-- The `value` field of a result, zero-extended (R76, R77). -/
def Result.value : Result → Value
  | .keypad v => v.setWidth 32
  | .reader v => v
  | .reject c => c.code
  | .none | .ready | .stopped => 0

/-- The result word `{kind, value}` (R76). -/
def Result.word (r : Result) : ResultWord := r.kind ++ r.value

/-- `kind`, bits [34:32] of a result word (R76). -/
def kindField (w : ResultWord) : BitVec 3 := w.extractLsb' 32 3

/-- `value`, bits [31:0] of a result word (R76). -/
def valueField (w : ResultWord) : Value := w.extractLsb' 0 32

/-- The result port: the word of the last step's result (20_memory.md R50, R79). -/
def State.resultWord (s : State) : ResultWord := s.result.word

/-- A result as R84 writes it. -/
def Result.text : Result → String
  | .none => "NONE"
  | .keypad v => "KEYPAD(" ++ toString v.toNat ++ ")"
  | .reader v => "READER(" ++ toString v.toNat ++ ")"
  | .ready => "READY"
  | .stopped => "STOPPED"
  | .reject c => "REJECT(" ++ toString c.code.toNat ++ ")"

end Sys2Proof.Machine
end

