-- ==== Sys2Proof/Machine/Observe.lean ====
section
/-! DEFINITION. The step in the spec's own shape, State x Input -> State x Result (00_scope.md R7), runs of it
over a sequence of inputs, and what the consumer observes of a run (R8). -/

namespace Sys2Proof.Machine

/-- R7: the block and the result after one input, read off `step`. The last two arms are never taken: there
is no fault, and no event is refused. -/
def Block.present (b : Block) (i : Input) : Block × Result :=
  match step { block := b, inputs := [i], result := .none } with
  | .next t => (t.block, t.result)
  | .fault _ => (b, .none)
  | .refused _ => (b, .none)

/-- The block after a sequence of inputs, one a step (R58). -/
def Block.after (b : Block) : List Input → Block
  | [] => b
  | i :: is => (b.present i).1.after is

/-- The results of the steps of a run, in step order (R58 b, R79). -/
def Block.results (b : Block) : List Input → List Result
  | [] => []
  | i :: is => (b.present i).2 :: (b.present i).1.results is

/-- The results that are not NONE, each with the number of its step, counted from 0 (R8). -/
def Block.observation (b : Block) (is : List Input) : List (Nat × Result) :=
  (((b.results is).zipIdx).filter fun p => decide (p.1 ≠ .none)).map fun p => (p.2, p.1)

/-- The event words of a list of events, as inputs. -/
def eventInputs (is : List Instr) : List Input := is.map fun i => .event (encode i)

/-- The edge event of a bit: D0 for 0, D1 for 1 (R80, R83). -/
def edgeEvent : Bool → Instr
  | false => .d0
  | true => .d1

end Sys2Proof.Machine
end

