-- ==== Sys2Proof/Machine/Assemble.lean ====
section
/-! DEFINITION. What the lines of a trace present to the block (30_encoding.md R82, R83). -/

namespace Sys2Proof.Machine

/-- `BITS b1 ... bk` (R83): one edge for each bit, in the order written. -/
def bitsInputs (bs : List Bool) : List Input := eventInputs (bs.map edgeEvent)

/-- `WAIT n` (R83): n ticks. -/
def waitInputs (n : Nat) : List Input := eventInputs (List.replicate n .tick)

/-- The reserved code of `RSVD op`, for op 6 to 15 (R82); a line with another op is ill formed and presents
what its word decodes to. -/
def rsvdWord (op : Nat) : EventWord := BitVec.ofNat 4 op ++ (0 : Ticks)

/-- The inputs of one line, `qp` being the quiet period in force (R82, R83). -/
def lineInputs (qp : Ticks) : Line → List Input
  | .nop => eventInputs [.nop]
  | .d0 => eventInputs [.d0]
  | .d1 => eventInputs [.d1]
  | .tick => eventInputs [.tick]
  | .begin n => eventInputs [.begin (BitVec.ofNat 16 n)]
  | .beginBare => eventInputs [.begin 0]
  | .stop => eventInputs [.stop]
  | .rsvd op => [.event (rsvdWord op)]
  | .reset => [.reset]
  | .bits bs => bitsInputs bs
  | .wait n => waitInputs n
  | .quiet => waitInputs qp.toNat
  | .frame bs => bitsInputs bs ++ waitInputs qp.toNat

/-- The inputs of a trace from a block: the quiet period in force at a line is the QP of the block that the
lines before it lead to (R83; log entry 10). -/
def traceInputs (b : Block) : List Line → List Input
  | [] => []
  | l :: ls => lineInputs b.qp l ++ traceInputs (b.after (lineInputs b.qp l)) ls

end Sys2Proof.Machine
end

