-- ==== Sys2Proof/Machine/TimeBase.lean ====
section
/-! DEFINITION. Ticks and real time (70_reset_and_hazards.md R189), and the environment's duties of presenting
(R180 to R182). Time is a natural number of any unit. The period `T` (T_TICK, OPEN) and the phase `ph` of the
time base are arguments: tick boundaries are the times ph, ph + T, ph + 2T, ... (log entry 8). -/

namespace Sys2Proof.Machine

/-- How many tick boundaries lie at or before time `t`. -/
def boundariesUpTo (T ph t : Nat) : Nat := if t < ph then 0 else (t - ph) / T + 1

/-- How many ticks are presented between an edge at `t1` and an edge at `t2`: those of the boundaries after
`t1` and at or before `t2`, since a tick that coincides with an edge is presented first (R182, R159 d). -/
def ticksBetween (T ph t1 t2 : Nat) : Nat := boundariesUpTo T ph t2 - boundariesUpTo T ph t1

/-- The time of the `n`-th boundary after `t`, n from 1 (R189). -/
def nthBoundaryAfter (T ph t n : Nat) : Nat := ph + (boundariesUpTo T ph t + (n - 1)) * T

/-- What the environment presents from time `now`, up to and with the boundaries at or before `upto`, for
edges given with their arrival times in arrival order: one event a step, arrival order kept, a coinciding
tick first (R180, R181, R182). -/
def wireInputs (T ph now : Nat) : List (Nat × Bool) → Nat → List Input
  | [], upto => waitInputs (ticksBetween T ph now upto)
  | (t, bit) :: es, upto =>
    waitInputs (ticksBetween T ph now t) ++ bitsInputs [bit] ++ wireInputs T ph t es upto

end Sys2Proof.Machine
end

