-- ==== Sys2Proof/Machine/Source.lean ====
section
/-! DEFINITION. The source's own machine, with an unbounded frame buffer and an optional timer (10_state.md R28,
R20 "the source's data model"): what the bounded block is a refinement of. It is no part of the state; the
refinement statement compares the two. -/

namespace Sys2Proof.Machine

/-- The source's data model: lifecycle state, quiet period, the list of bits since the last clear, and "an
optional scheduled-task handle" with the ticks left (R25, R28). -/
structure SourceBlock where
  lst   : Lifecycle
  qp    : Ticks
  bits  : List Bool
  timer : Option Ticks
deriving DecidableEq, Repr

/-- The source's classifier table on the whole list, "longest match first" (R110, R28): the first 34, 26 or 4
elements, never the last. -/
def classifyRun (L : List Bool) : Result :=
  if Config.readerLong ≤ L.length then validate .long (L.take Config.readerLong)
  else if Config.readerShort ≤ L.length then validate .short (L.take Config.readerShort)
  else if L.length = Config.keypadLen then .keypad (keypadValue L)
  else .none

/-- What a run of bits yields at its timeout, for every length (R116), the floor of 4 included (R97). -/
def runResult (L : List Bool) : Result :=
  if Config.minLen ≤ L.length then classifyRun L else .none

/-- The source's `onEdge(line)` (R93 quotes it): append, cancel, rearm. -/
def SourceBlock.onEdge (bit : Bool) (b : SourceBlock) : SourceBlock :=
  { b with bits := b.bits ++ [bit], timer := some b.qp }

/-- One tick of the time base; the expiring one is the source's `onTimeout()` (R94, R96). -/
def SourceBlock.onTick (b : SourceBlock) : SourceBlock × Result :=
  match b.timer with
  | Option.none => (b, .none)
  | some t =>
    if 1 < t.toNat then ({ b with timer := some (t - 1) }, .none)
    else ({ b with bits := [], timer := Option.none }, runResult b.bits)

/-- The source machine on one event (R135 table). -/
def SourceBlock.onEvent (b : SourceBlock) (i : Instr) : SourceBlock × Result :=
  match b.lst, i with
  | _, .nop => (b, .none)
  | .idle, .d0 => (b, .none)
  | .idle, .d1 => (b, .none)
  | .idle, .tick => (b, .none)
  | .listening, .d0 => (b.onEdge false, .none)
  | .listening, .d1 => (b.onEdge true, .none)
  | .listening, .tick => b.onTick
  | .idle, .begin arg => ({ b with lst := .listening, qp := quietPeriod arg }, .ready)
  | .listening, .begin _ => (b, .reject .alreadyListening)
  | .listening, .stop => ({ b with lst := .idle, bits := [], timer := Option.none }, .stopped)
  | .idle, .stop => (b, .reject .alreadyIdle)
  | _, .rsvd6 => (b, .reject .reservedCode)
  | _, .rsvd7 => (b, .reject .reservedCode)
  | _, .rsvd8 => (b, .reject .reservedCode)
  | _, .rsvd9 => (b, .reject .reservedCode)
  | _, .rsvd10 => (b, .reject .reservedCode)
  | _, .rsvd11 => (b, .reject .reservedCode)
  | _, .rsvd12 => (b, .reject .reservedCode)
  | _, .rsvd13 => (b, .reject .reservedCode)
  | _, .rsvd14 => (b, .reject .reservedCode)
  | _, .rsvd15 => (b, .reject .reservedCode)

/-- "constructed idle (empty buffer, no timer)" (R175). -/
def SourceBlock.reset : SourceBlock where
  lst := .idle
  qp := BitVec.ofNat 16 Config.quietDefault
  bits := []
  timer := Option.none

/-- One input of the source machine, in the shape of R7. -/
def SourceBlock.present (b : SourceBlock) : Input → SourceBlock × Result
  | .reset => (SourceBlock.reset, .none)
  | .event w => b.onEvent (decode w)

/-- The source machine after a sequence of inputs. -/
def SourceBlock.after (b : SourceBlock) : List Input → SourceBlock
  | [] => b
  | i :: is => (b.present i).1.after is

/-- The results of a run of the source machine. -/
def SourceBlock.results (b : SourceBlock) : List Input → List Result
  | [] => []
  | i :: is => (b.present i).2 :: (b.present i).1.results is

end Sys2Proof.Machine
end

