-- ==== Sys2Proof/Safety.lean ====
section
/-! DEFINITION. What the claims are about: the invariants (10_state.md R27), the assembler phase (R29),
observational equality (00_scope.md R8), the refinement relation (R28) and the shape of a run (43_lifecycle.md R143). -/

namespace Sys2Proof.Machine

/-- The invariants of R27: what every state reachable from reset satisfies. -/
structure Block.Inv (b : Block) : Prop where
  v1 : b.lst = .idle → b.cnt = 0 ∧ b.armed = false ∧ b.tmr = 0 ∧ ∀ i < Config.bufCells, b.cell i = false
  v2 : b.armed = true ↔ 1 ≤ b.cnt.toNat
  v3 : b.armed = true → 1 ≤ b.tmr.toNat ∧ b.tmr.toNat ≤ b.qp.toNat
  v4 : b.armed = false → b.tmr = 0
  v5 : ∀ i < Config.bufCells, b.cnt.toNat ≤ i → b.cell i = false
  v6 : 1 ≤ b.qp.toNat ∧ b.qp.toNat ≤ 65535
  v7 : b.cnt.toNat ≤ Config.bufCells

/-- The phases of the Frame Assembler (R29). -/
inductive Phase where
  | idle
  | empty
  | accum
deriving DecidableEq, Repr

/-- The phase, read off LST and ARMED (R29). -/
def Block.phase (b : Block) : Phase :=
  match b.lst, b.armed with
  | .idle, _ => .idle
  | .listening, false => .empty
  | .listening, true => .accum

/-- "Two states are observationally equal when every input sequence yields the same result sequence from
both" (R8). -/
def ObservationallyEqual (b c : Block) : Prop := ∀ is : List Input, b.results is = c.results is

/-- The abstraction relation of R28, between the block and the source's machine: the same lifecycle state and
quiet period, CNT = min(len L, 34), BUF[0..CNT-1] = L[0..CNT-1], and the timer of ARMED and TMR. -/
structure Abstracts (b : Block) (S : SourceBlock) : Prop where
  lst   : b.lst = S.lst
  qp    : b.qp = S.qp
  cnt   : b.cnt.toNat = min S.bits.length Config.bufCells
  buf   : ∀ i < b.cnt.toNat, S.bits[i]? = some (b.cell i)
  timer : S.timer = if b.armed then some b.tmr else Option.none

/-- A result a consumer gets from a frame (R77, R98): KEYPAD or READER. -/
def Result.isDecoded : Result → Bool
  | .keypad _ | .reader _ => true
  | .none | .ready | .stopped | .reject _ => false

/-- The shape of R143, from a state that is Listening or not: READY and STOPPED alternate, READY first from
Idle, and every KEYPAD and READER lies between a READY and the next STOPPED. -/
def alternates (listening : Bool) : List Result → Bool
  | [] => true
  | .ready :: rs => !listening && alternates true rs
  | .stopped :: rs => listening && alternates false rs
  | .keypad _ :: rs => listening && alternates listening rs
  | .reader _ :: rs => listening && alternates listening rs
  | .none :: rs => alternates listening rs
  | .reject _ :: rs => alternates listening rs

/-- An event that is neither an edge nor a STOP (40_frame_assembler.md R95: what may lie between two edges
of a Listening period). -/
def isGapEvent : Instr → Bool
  | .d0 | .d1 | .stop => false
  | .nop | .tick | .begin _ => true
  | .rsvd6 | .rsvd7 | .rsvd8 | .rsvd9 | .rsvd10 | .rsvd11 | .rsvd12 | .rsvd13 | .rsvd14 | .rsvd15 => true

/-- How many ticks a sequence of events holds. -/
def tickCount (is : List Instr) : Nat := is.count .tick

end Sys2Proof.Machine
end

