-- ==== Sys2Proof/Certificates/Slice0/Obligations.lean ====
section
/-! DEFINITION. The statements for the provers. Each docstring says which rule of spec/ it formalises. A
statement about a step says `s.inputs` too: that field is the model's own (log entry 1), and the clause that
an event leaves the inputs after it alone is the model's choice. -/

open Sys2Proof Sys2Proof.Machine

namespace Sys2Proof.Claims

/-- How many of the cells `lo` to `hi - 1` are set (42_parity_validator.md R121, R122). -/
def onesIn (b : Block) (lo hi : Nat) : Nat := ∑ i ∈ Finset.Ico lo hi, (b.cell i).toNat

/-- The sum of R124: for 1 <= i <= n-2, cell i has weight 2^(n-2-i). -/
def weighted (b : Block) (n : Nat) : Nat := ∑ i ∈ Finset.Ico 1 (n - 1), (b.cell i).toNat * 2 ^ (n - 2 - i)

/-- What R120 to R125 say of the result of a reader candidate of n bits held in the buffer. -/
def ReaderOutcome (b : Block) (n : Nat) (r : Result) : Prop :=
  (onesIn b 0 (n / 2) % 2 = 0 ∧ onesIn b (n / 2) n % 2 = 1 →
    ∃ v : Value, r = .reader v ∧ v.toNat = weighted b n ∧ v.toNat < 2 ^ (n - 2)) ∧
  (¬(onesIn b 0 (n / 2) % 2 = 0 ∧ onesIn b (n / 2) n % 2 = 1) → r = .none)

/-- The timeout fires at this TICK (40_frame_assembler.md R94): Listening, armed, one tick left. -/
def Firing (s : State) : Prop := s.block.lst = .listening ∧ s.block.armed = true ∧ s.block.tmr = 1

/-- How many leading cells the classifier reads for a count (20_memory.md R53). -/
def prefixRead (cnt : Count) : Nat :=
  if 34 ≤ cnt.toNat then 34 else if 26 ≤ cnt.toNat then 26 else if cnt.toNat = 4 then 4 else 0

/-- The bits held of a reader candidate: 26 to 33 for a short frame, 34 or more for a long one (R111, R112). -/
def holdsReader (n : ReaderLength) (cnt : Count) : Prop :=
  match n with
  | .short => 26 ≤ cnt.toNat ∧ cnt.toNat ≤ 33
  | .long => 34 ≤ cnt.toNat

/-- The same state with other cells in the frame buffer. -/
def withCells (s : State) (other : Vector Bool 34) : State :=
  { s with block := { s.block with buf := other } }

end Sys2Proof.Claims

open Sys2Proof.Claims

/-- 30_encoding.md R70, R73, R82: decoding the word of an event gives it back, through every reading of it, and
encoding what a word decodes to gives the word back, with `arg` cleared where R72 ignores it. -/
def Obligations.DecodeAndEncodeAgree : Prop :=
  (∀ i : Instr, i.wellFormed = true → decode (encode i) = i ∧
    decodeNumber (encode i).toNat = .ok i ∧ decodeTableWord 24 (encode i).toNat = some i) ∧
  (∀ w : EventWord, encode (decode w) = if opField w = 4 then w else w &&& 0xF0000)

/-- 30_encoding.md R72: what a word decodes to depends on `op`, and on `arg` for BEGIN only; every row's mask
covers `op` only. -/
def Obligations.OnlyBeginReadsItsArgument : Prop :=
  (∀ w v : EventWord, decode w = decode v ↔ opField w = opField v ∧ (opField w = 4 → argField w = argField v)) ∧
  (∀ w : EventWord, opField w = 4 → decode w = .begin (argField w)) ∧
  (∀ i : Instr, i.row.mask = 0xF0000)

/-- 30_encoding.md R73 with spec/opcode_table.json: every event word matches exactly one of the table's rows, and
it is the row of the event the word decodes to. -/
def Obligations.EveryWordMatchesExactlyOneRow : Prop :=
  ∀ (w : EventWord) (i : Instr), i.row.accepts w = true ↔ i.row = (decode w).row

/-- 95_test_vectors.md T1a to T1r: all eighteen words of the vector, written out from the table of codes (R71),
decode as listed. -/
def Obligations.ListedEventWordsDecode : Prop :=
  decode 0x00000 = .nop ∧ decode 0x0FFFF = .nop ∧ decode 0x10000 = .d0 ∧ decode 0x1ABCD = .d0 ∧
  decode 0x20000 = .d1 ∧ decode 0x20001 = .d1 ∧ decode 0x30000 = .tick ∧ decode 0x3FFFF = .tick ∧
  decode 0x40000 = .begin 0 ∧ decode 0x40019 = .begin 25 ∧ decode 0x40001 = .begin 1 ∧
  decode 0x4FFFF = .begin 65535 ∧ decode 0x50000 = .stop ∧ decode 0x5DEAD = .stop ∧
  decode 0x60000 = .rsvd6 ∧ decode 0x9C0DE = .rsvd9 ∧ decode 0xF0000 = .rsvd15 ∧ decode 0xFFFFF = .rsvd15

/-- 30_encoding.md R82: the words of the lines of a trace. -/
def Obligations.TraceLinesHaveTheListedWords : Prop :=
  ∀ q : Ticks, lineInputs q .nop = [.event 0x00000] ∧ lineInputs q .d0 = [.event 0x10000] ∧
    lineInputs q .d1 = [.event 0x20000] ∧ lineInputs q .tick = [.event 0x30000] ∧
    lineInputs q (.begin 25) = [.event 0x40019] ∧ lineInputs q .beginBare = [.event 0x40000] ∧
    lineInputs q .stop = [.event 0x50000] ∧ lineInputs q (.rsvd 6) = [.event 0x60000] ∧
    lineInputs q .reset = [.reset] ∧
    lineInputs q (.bits [true, false, true, true]) =
      [.event 0x20000, .event 0x10000, .event 0x20000, .event 0x20000] ∧
    (lineInputs q .quiet).length = q.toNat

/-- 30_encoding.md R84: the result words as written there. -/
def Obligations.ResultsHaveTheListedWords : Prop :=
  Result.none.word = 0x000000000 ∧ (Result.keypad 11).word = 0x10000000B ∧
  (Result.reader 4194305).word = 0x200400001 ∧ Result.ready.word = 0x300000000 ∧
  Result.stopped.word = 0x400000000 ∧ (Result.reject .alreadyListening).word = 0x500000001 ∧
  (Result.keypad 11).text = "KEYPAD(11)" ∧ (Result.reader 4194305).text = "READER(4194305)" ∧
  Result.none.text = "NONE" ∧ Result.ready.text = "READY" ∧ Result.stopped.text = "STOPPED" ∧
  (Result.reject .alreadyListening).text = "REJECT(1)"

/-- 30_encoding.md R76 to R78: the result word tells every two results apart, no step yields kind 6 or 7, and
NONE, READY and STOPPED have value 0, a KEYPAD at most 15, a REJECT 1, 2 or 3. -/
def Obligations.ResultWordsAreWellFormed : Prop :=
  (∀ r q : Result, r.word = q.word → r = q) ∧
  (∀ s t : State, step s = .next t →
    kindField t.resultWord ≠ 6 ∧ kindField t.resultWord ≠ 7 ∧
    (kindField t.resultWord = 0 ∨ kindField t.resultWord = 3 ∨ kindField t.resultWord = 4 →
      valueField t.resultWord = 0) ∧
    (kindField t.resultWord = 1 → (valueField t.resultWord).toNat ≤ 15) ∧
    (kindField t.resultWord = 5 →
      1 ≤ (valueField t.resultWord).toNat ∧ (valueField t.resultWord).toNat ≤ 3))

/-- 40_frame_assembler.md R90: NOP changes no state element and yields NONE, in every state. -/
def Obligations.NopChangesNothing : Prop :=
  ∀ s : State, exec .nop s = .next { s with result := .none }

/-- 40_frame_assembler.md R91, R92 and 20_memory.md R52: D0 and D1 while Idle change nothing. While Listening
they append their bit at CNT, or none when 34 are held, arm the timer and load it from QP; LST, QP and every
other cell stay. -/
def Obligations.EdgesAppendTheirBitAndRestartTheTimer : Prop :=
  ∀ (i : Instr) (bit : Bool), (i = .d0 ∧ bit = false ∨ i = .d1 ∧ bit = true) → ∀ s : State,
    (s.block.lst = .idle → exec i s = .next { s with result := .none }) ∧
    (s.block.lst = .listening → ∃ t : State, exec i s = .next t ∧
      t.result = .none ∧ t.inputs = s.inputs ∧
      t.block.lst = .listening ∧ t.block.qp = s.block.qp ∧ t.block.armed = true ∧ t.block.tmr = s.block.qp ∧
      (s.block.cnt.toNat < 34 → t.block.cnt.toNat = s.block.cnt.toNat + 1 ∧
        t.block.cell s.block.cnt.toNat = bit ∧ ∀ j ≠ s.block.cnt.toNat, t.block.cell j = s.block.cell j) ∧
      (34 ≤ s.block.cnt.toNat → t.block.cnt = s.block.cnt ∧ ∀ j, t.block.cell j = s.block.cell j))

/-- 40_frame_assembler.md R94: TICK is ignored while Idle or with no timer pending, counts TMR down while it is
above 1, and fires the timeout at 1. In no state does TMR grow, so it never wraps below 0. -/
def Obligations.TickIgnoresCountsDownOrFires : Prop :=
  ∀ s : State,
    (¬(s.block.lst = .listening ∧ s.block.armed = true) → exec .tick s = .next { s with result := .none }) ∧
    (s.block.lst = .listening → s.block.armed = true → 1 < s.block.tmr.toNat →
      ∃ t : State, exec .tick s = .next t ∧ t = { s with block := { s.block with tmr := t.block.tmr }, result := .none } ∧
        t.block.tmr.toNat + 1 = s.block.tmr.toNat) ∧
    (Firing s → exec .tick s = s.timeout) ∧
    (∃ t : State, exec .tick s = .next t ∧ t.block.tmr.toNat ≤ s.block.tmr.toNat)

/-- 40_frame_assembler.md R96 with 20_memory.md R54: the firing TICK hands the buffer to the classifier if and
only if 4 bits are held, and clears every cell, CNT, ARMED and TMR whatever happened; LST and QP stay. The phase
is then EMPTY, and the block is as just after an accepted BEGIN with the same quiet period. -/
def Obligations.TimeoutClassifiesThenClears : Prop :=
  ∀ s : State, Firing s → ∃ t : State, exec .tick s = .next t ∧ t.inputs = s.inputs ∧
    t.result = (if 4 ≤ s.block.cnt.toNat then s.block.classify else .none) ∧
    t.block.lst = .listening ∧ t.block.qp = s.block.qp ∧ t.block.cnt = 0 ∧ t.block.armed = false ∧
    t.block.tmr = 0 ∧ (∀ j, t.block.cell j = false) ∧ t.block.phase = .empty ∧
    (s.block.qp ≠ 0 → t.block = (Block.reset.present (.event (encode (.begin s.block.qp)))).1)

/-- 41_frame_classifier.md R113, R114, 40_frame_assembler.md R97, 42_parity_validator.md R126: at the timeout
exactly 4 bits give the keypad value, first bit most significant, with no parity check; 1 to 3 bits and 5 to
25 bits give nothing. -/
def Obligations.KeypadFrameAndDroppedLengths : Prop :=
  ∀ s : State, Firing s → s.block.cnt.toNat ≤ 25 → ∃ t : State, exec .tick s = .next t ∧ t.block = s.block.clear ∧
    (s.block.cnt.toNat = 4 → ∃ v : BitVec 4, t.result = .keypad v ∧
      v.toNat = (s.block.cell 0).toNat * 8 + (s.block.cell 1).toNat * 4 + (s.block.cell 2).toNat * 2 +
        (s.block.cell 3).toNat) ∧
    (s.block.cnt.toNat ≠ 4 → t.result = .none)

/-- 41_frame_classifier.md R111, R112, R115 and 42_parity_validator.md R121, R122, R124, R125: at the timeout 26
to 33 bits are a reader candidate of the first 26, 34 or more one of the first 34 and nothing else; its value
comes out if the first half has an even and the second half an odd number of set bits, and nothing otherwise. -/
def Obligations.ReaderFramesAreValidated : Prop :=
  ∀ s : State, Firing s → 26 ≤ s.block.cnt.toNat → ∃ t : State, exec .tick s = .next t ∧ t.block = s.block.clear ∧
    (s.block.cnt.toNat ≤ 33 → ReaderOutcome s.block 26 t.result) ∧
    (34 ≤ s.block.cnt.toNat → ReaderOutcome s.block 34 t.result)

/-- 42_parity_validator.md R128 b: each parity check is the exclusive-or of the bits of its half. -/
def Obligations.ParityChecksAreExclusiveOrs : Prop :=
  ∀ (n : ReaderLength) (F : List Bool), F.length = n.bits →
    evenOk n F = !((F.take (n.bits / 2)).foldr Bool.xor false) ∧
    oddOk n F = (F.drop (n.bits / 2)).foldr Bool.xor false

/-- 42_parity_validator.md R127: changing any one bit of an accepted frame held in the buffer, without changing
its length, drops it: the next timeout yields NONE where it yielded a READER. -/
def Obligations.SingleBitErrorsAreDropped : Prop :=
  ∀ (n : ReaderLength) (s : State) (v : Value) (j : Nat) (hj : j < 34), Firing s → holdsReader n s.block.cnt →
    j < n.bits → (∃ t : State, exec .tick s = .next t ∧ t.result = .reader v) →
    ∃ u : State, exec .tick (withCells s (s.block.buf.set j (!s.block.cell j) hj)) = .next u ∧ u.result = .none

/-- 42_parity_validator.md R128 g: for every value there is exactly one frame that passes, 24 bits of value for
a frame of 26 bits and 32 for one of 34. -/
def Obligations.EveryValueHasExactlyOneFrame : Prop :=
  ∀ (n : ReaderLength) (v : Value), v.toNat < 2 ^ (n.bits - 2) →
    ∃! F : List Bool, F.length = n.bits ∧ validate n F = .reader v

/-- 43_lifecycle.md R136: BEGIN from Idle latches `arg`, or 25 for `arg = 0`, enters Listening and yields READY;
the buffer, the count and the timer are not written; BEGIN 25 and BEGIN 0 have the same effect. -/
def Obligations.BeginFromIdleIsAccepted : Prop :=
  (∀ (arg : Ticks) (s : State), s.block.lst = .idle →
    exec (.begin arg) s =
      .next { s with
        block := { s.block with lst := .listening, qp := if arg = 0 then 25 else arg }
        result := .ready }) ∧
  (∀ s : State, exec (.begin 0) s = exec (.begin 25) s)

/-- 43_lifecycle.md R137: BEGIN while Listening changes no state element and yields REJECT(1). -/
def Obligations.BeginWhileListeningIsRejected : Prop :=
  ∀ (arg : Ticks) (s : State), s.block.lst = .listening →
    exec (.begin arg) s = .next { s with result := .reject .alreadyListening } ∧
    RejectCause.alreadyListening.code = 1

/-- 43_lifecycle.md R138: STOP while Listening clears every cell, CNT, ARMED and TMR, enters Idle, keeps QP and
yields STOPPED. -/
def Obligations.StopFromListeningIsAccepted : Prop :=
  ∀ s : State, s.block.lst = .listening →
    exec .stop s =
      .next { s with
        block := { lst := .idle, qp := s.block.qp, buf := Vector.replicate 34 false, cnt := 0, armed := false, tmr := 0 }
        result := .stopped }

/-- 43_lifecycle.md R139: STOP while Idle changes no state element and yields REJECT(2), no STOPPED. -/
def Obligations.StopWhileIdleIsRejected : Prop :=
  ∀ s : State, s.block.lst = .idle →
    exec .stop s = .next { s with result := .reject .alreadyIdle } ∧ RejectCause.alreadyIdle.code = 2

/-- 43_lifecycle.md R140: RSVD6 to RSVD15 (an event word with `op` 6 to 15) change no state element and yield
REJECT(3), in both lifecycle states and whatever `arg` holds. -/
def Obligations.ReservedCodesAreRejected : Prop :=
  (∀ i ∈ [Instr.rsvd6, .rsvd7, .rsvd8, .rsvd9, .rsvd10, .rsvd11, .rsvd12, .rsvd13, .rsvd14, .rsvd15], ∀ s : State,
    exec i s = .next { s with result := .reject .reservedCode }) ∧
  (∀ (s : State) (w : EventWord), 6 ≤ (opField w).toNat →
    exec (decode w) s = .next { s with result := .reject .reservedCode }) ∧
  RejectCause.reservedCode.code = 3

/-- 60_exceptions.md R151: a REJECT comes from BEGIN while Listening with cause 1, from STOP while Idle with cause
2 and from a reserved code with cause 3, always then and never otherwise; the block is unchanged by that step. -/
def Obligations.RejectsHaveExactlyTheseCauses : Prop :=
  ∀ (i : Instr) (s : State), ∃ t : State, exec i s = .next t ∧
    (∀ c : RejectCause, t.result = .reject c ↔
      ((∃ a, i = .begin a) ∧ s.block.lst = .listening ∧ c.code = 1) ∨
      (i = .stop ∧ s.block.lst = .idle ∧ c.code = 2) ∨
      (6 ≤ i.op.toNat ∧ c.code = 3)) ∧
    (∀ c : RejectCause, t.result = .reject c → t.block = s.block ∧ kindField t.resultWord = 5 ∧
      valueField t.resultWord = c.code)

/-- The step runs the decoded event, on the inputs after it; a reset input and an idle port (log entry 2) are
the two other cases. R7, R70 and R81; where the inputs stand and what withFetchWord stands for are the model's
choice (log entries 1, 4). -/
def Obligations.StepRunsTheDecodedEvent : Prop :=
  (∀ (s : State) (w : EventWord) (rest : List Input), s.inputs = .event w :: rest →
    step s = exec (decode w) { s with inputs := rest }) ∧
  (∀ (s : State) (rest : List Input), s.inputs = .reset :: rest → step s = { s with inputs := rest }.applyReset) ∧
  (∀ s : State, s.inputs = [] → step s = exec .nop s) ∧
  (∀ (s : State) (i : Instr), step (s.withFetchWord 24 (encode i).toNat) = exec i s)

/-- 00_scope.md R7, 60_exceptions.md R167: a step always answers a next state, never a fault or a refusal, and
its block and result depend on the block and the input alone: not on the last result, not on later inputs. -/
def Obligations.StepIsATotalFunctionOfBlockAndInput : Prop :=
  ∀ s : State, ∃ t : State, step s = .next t ∧ t.inputs = s.inputs.tail ∧
    (t.block, t.result) = s.block.present (s.inputs.headD (.event 0x00000))

/-- 70_reset_and_hazards.md R175, 10_state.md R35: a step with reset leads to the reset state from every state, with
result NONE, whatever the event word holds. That the input is the first of `s.inputs` is the model's form of the
port (log entry 1). -/
def Obligations.ResetLeadsToTheResetState : Prop :=
  (∀ (s : State) (ev : EventWord) (rest : List Input), s.inputs = inputOfPins true ev :: rest →
    step s = .next { block := State.reset.block, inputs := rest, result := .none }) ∧
  State.reset.block = { lst := .idle, qp := 25, buf := Vector.replicate 34 false, cnt := 0, armed := false, tmr := 0 }

/-- 10_state.md R27: the reset state satisfies the invariants V1 to V7. -/
def Obligations.ResetStateSatisfiesTheInvariants : Prop := State.reset.block.Inv

/-- 10_state.md R27: every step keeps the invariants V1 to V7. -/
def Obligations.EveryStepKeepsTheInvariants : Prop :=
  ∀ s t : State, s.block.Inv → step s = .next t → t.block.Inv

/-- 10_state.md R29: the transitions of the Frame Assembler's phase, one for each phase and event, and reset. -/
def Obligations.AssemblerPhaseTransitions : Prop :=
  (∀ (i : Instr) (s : State), s.block.Inv → ∃ t : State, exec i s = .next t ∧
    (s.block.phase = .idle → (∀ a, i = .begin a → t.block.phase = .empty) ∧
      ((∀ a, i ≠ .begin a) → t.block.phase = .idle)) ∧
    (s.block.phase = .empty →
      t.block.phase = if i = .d0 ∨ i = .d1 then .accum else if i = .stop then .idle else .empty) ∧
    (s.block.phase = .accum →
      t.block.phase = if i = .stop then .idle else if i = .tick ∧ s.block.tmr = 1 then .empty else .accum)) ∧
  (∀ (s : State) (rest : List Input), s.inputs = .reset :: rest → ∃ t, step s = .next t ∧ t.block.phase = .idle)

/-- 10_state.md R36, R21 to R26: what each event may write, and nothing else, for all sixteen events. This is the
frame of every event. A TICK with TMR = 0 and ARMED = 1, which no run reaches, fires (log entry 5). -/
def Obligations.EventsWriteOnlyWhatTheAccessTableLists : Prop :=
  ∀ (i : Instr) (s : State), ∃ t : State, exec i s = .next t ∧ t.inputs = s.inputs ∧
    (t.block.lst ≠ s.block.lst → ((∃ a, i = .begin a) ∧ s.block.lst = .idle) ∨ (i = .stop ∧ s.block.lst = .listening)) ∧
    (t.block.qp ≠ s.block.qp → (∃ a, i = .begin a) ∧ s.block.lst = .idle) ∧
    (∀ j, t.block.cell j ≠ s.block.cell j →
      s.block.lst = .listening ∧
      ((i = .d0 ∨ i = .d1) ∧ j = s.block.cnt.toNat ∨
       (i = .tick ∧ s.block.armed = true ∧ s.block.tmr.toNat ≤ 1 ∨ i = .stop) ∧ t.block.cell j = false)) ∧
    (t.block.cnt ≠ s.block.cnt →
      s.block.lst = .listening ∧
      (i = .d0 ∨ i = .d1 ∨ (i = .tick ∧ s.block.armed = true ∧ s.block.tmr.toNat ≤ 1 ∨ i = .stop) ∧ t.block.cnt = 0)) ∧
    (t.block.armed ≠ s.block.armed →
      s.block.lst = .listening ∧
      ((i = .d0 ∨ i = .d1) ∧ t.block.armed = true ∨
       (i = .tick ∧ s.block.tmr.toNat ≤ 1 ∨ i = .stop) ∧ t.block.armed = false)) ∧
    (t.block.tmr ≠ s.block.tmr →
      s.block.lst = .listening ∧ (i = .d0 ∨ i = .d1 ∨ i = .tick ∧ s.block.armed = true ∨ i = .stop))

/-- 20_memory.md R53, 10_state.md R34: no event but the TICK that fires reads a cell of the buffer: with other cells
every other event gives the same result and the same values everywhere else. TMR = 0 counts as 1 (log entry 5). -/
def Obligations.OnlyTheFiringTickReadsTheBuffer : Prop :=
  ∀ (i : Instr) (s : State) (other : Vector Bool 34),
    ¬(i = .tick ∧ s.block.lst = .listening ∧ s.block.armed = true ∧ s.block.tmr.toNat ≤ 1) →
    ∃ t u : State, exec i s = .next t ∧ exec i (withCells s other) = .next u ∧
      u = { t with block := { t.block with buf := u.block.buf } } ∧
      (∀ j, t.block.cell j = s.block.cell j ∧ u.block.cell j = (other.toList.getD j false) ∨
        t.block.cell j = u.block.cell j)

/-- 20_memory.md R53, 41_frame_classifier.md R112: the firing TICK reads the leading 34, 26 or 4 cells its count
selects, and no other: two blocks that agree on those have the same outcome. -/
def Obligations.TimeoutReadsOnlyTheLeadingCells : Prop :=
  ∀ (s : State) (other : Vector Bool 34), Firing s →
    (∀ j < prefixRead s.block.cnt, s.block.cell j = other.toList.getD j false) →
    exec .tick (withCells s other) = exec .tick s

/-- 10_state.md R23: a cell, once written, is not changed until the next clear, by any step, reset included. -/
def Obligations.HeldCellsAreNotChangedUntilTheNextClear : Prop :=
  ∀ s : State, ∃ t : State, step s = .next t ∧
    ((∀ j < s.block.cnt.toNat, t.block.cell j = s.block.cell j) ∧ s.block.cnt.toNat ≤ t.block.cnt.toNat ∨
     (∀ j, t.block.cell j = false) ∧ t.block.cnt = 0 ∧ t.block.armed = false ∧ t.block.tmr = 0)

/-- 40_frame_assembler.md R98: a KEYPAD or READER comes only from a timeout, with at least 4 bits held, and after
it the buffer is clear, so one timeout yields at most one. TMR = 0 counts as 1 (log entry 5). -/
def Obligations.DecodedValuesComeOnlyFromTimeouts : Prop :=
  ∀ s t : State, step s = .next t → t.result.isDecoded = true →
    (∃ (w : EventWord) (rest : List Input), s.inputs = .event w :: rest ∧ decode w = .tick) ∧
    s.block.lst = .listening ∧ s.block.armed = true ∧ s.block.tmr.toNat ≤ 1 ∧ 4 ≤ s.block.cnt.toNat ∧
    t.block = s.block.clear

/-- 10_state.md R24 and R23, 40_frame_assembler.md R93 c: edges from an empty buffer leave CNT = min(n, 34) and the
first 34 bits in arrival order, and yield no result however many they are. -/
def Obligations.EdgesStoreTheFirst34BitsInArrivalOrder : Prop :=
  ∀ (b : Block) (L : List Bool), b.lst = .listening → b.cnt = 0 →
    (b.after (bitsInputs L)).cnt.toNat = min L.length 34 ∧
    (∀ j < min L.length 34, L[j]? = some ((b.after (bitsInputs L)).cell j)) ∧
    b.results (bitsInputs L) = List.replicate L.length .none

/-- 70_reset_and_hazards.md R192: with a timer pending the timeout fires after exactly TMR further ticks, with
nothing before it, and the phase is then EMPTY; with none pending, no run without an edge yields a KEYPAD or
READER. -/
def Obligations.TheTimeoutFiresAfterExactlyTMRTicks : Prop :=
  (∀ b : Block, b.Inv → b.lst = .listening → b.armed = true →
    b.results (waitInputs b.tmr.toNat) = List.replicate (b.tmr.toNat - 1) .none ++ [b.timeoutResult] ∧
    b.after (waitInputs b.tmr.toNat) = b.clear ∧ b.clear.phase = .empty ∧
    (∀ k < b.tmr.toNat, (b.after (waitInputs k)).phase = .accum)) ∧
  (∀ (b : Block) (is : List Instr), b.Inv → b.armed = false → .d0 ∉ is → .d1 ∉ is →
    ∀ r ∈ b.results (eventInputs is), r.isDecoded = false)

/-- 40_frame_assembler.md R95, R98, 41_frame_classifier.md R116, 30_encoding.md R83: from phase EMPTY, a FRAME of any
length yields exactly what the length map says, at the QP-th tick after its last bit and at no other step, and
the block is then as before. -/
def Obligations.AFrameYieldsWhatTheLengthMapSays : Prop :=
  ∀ (b : Block) (L : List Bool), b.Inv → b.phase = .empty → L ≠ [] →
    b.results (lineInputs b.qp (.frame L)) =
      List.replicate (L.length + b.qp.toNat - 1) .none ++ [runResult L] ∧
    b.after (lineInputs b.qp (.frame L)) = b

/-- 40_frame_assembler.md R95: edges with fewer than QP ticks between them belong to one run; with QP or more the
timeout came on the QP-th of those ticks and the later edges are a new run. NOP, rejected BEGIN and reserved
codes between them count for nothing. -/
def Obligations.QuietPeriodAloneSeparatesRuns : Prop :=
  ∀ (b : Block) (L M : List Bool) (gap : List Instr), b.Inv → b.phase = .empty → L ≠ [] → M ≠ [] →
    (∀ i ∈ gap, isGapEvent i = true) →
    (tickCount gap < b.qp.toNat →
      b.after (bitsInputs L ++ eventInputs gap ++ bitsInputs M) = b.after (bitsInputs (L ++ M)) ∧
      ∀ r ∈ b.results (bitsInputs L ++ eventInputs gap ++ bitsInputs M), r.isDecoded = false) ∧
    (b.qp.toNat ≤ tickCount gap →
      b.after (bitsInputs L ++ eventInputs gap ++ bitsInputs M) = b.after (bitsInputs M) ∧
      ∃ before later : List Instr, gap = before ++ .tick :: later ∧ tickCount before + 1 = b.qp.toNat ∧
        ((b.after (bitsInputs L ++ eventInputs before)).present (.event (encode .tick))).2 = runResult L ∧
        (∀ r ∈ b.results (bitsInputs L ++ eventInputs before), r.isDecoded = false) ∧
        (∀ r ∈ (b.after (bitsInputs L ++ eventInputs (before ++ [.tick]))).results (eventInputs later ++ bitsInputs M),
          r.isDecoded = false))

/-- 10_state.md R28: the block with its 34 cells refines the source's machine with its unbounded list: they start
related, every input keeps them related and yields the same result, so every run yields the same results. The
source's machine is the model's reading of the source's data model (log entry 11). -/
def Obligations.BoundedBufferRefinesTheUnboundedList : Prop :=
  Abstracts Block.reset SourceBlock.reset ∧
  (∀ (b : Block) (S : SourceBlock) (i : Input), Abstracts b S →
    (b.present i).2 = (S.present i).2 ∧ Abstracts (b.present i).1 (S.present i).1) ∧
  (∀ is : List Input, Block.reset.results is = SourceBlock.reset.results is)

/-- 43_lifecycle.md R141: an accepted STOP followed by an accepted BEGIN leaves the block as reset followed by the
same BEGIN, whatever was buffered. -/
def Obligations.StopThenBeginIsResetThenBegin : Prop :=
  ∀ (b : Block) (arg : Ticks), b.lst = .listening →
    b.after (eventInputs [.stop, .begin arg]) = b.after (.reset :: eventInputs [.begin arg]) ∧
    b.results (eventInputs [.stop, .begin arg]) = [.stopped, .ready] ∧
    b.after (eventInputs [.stop, .begin arg]) =
      { Block.reset with lst := .listening, qp := if arg = 0 then 25 else arg }

/-- 70_reset_and_hazards.md R177: an accepted STOP and reset differ in QP and in the result of their step only, and
the states after them are observationally equal. -/
def Obligations.StoppedStateIsObservationallyTheResetState : Prop :=
  ∀ b : Block, b.lst = .listening →
    ObservationallyEqual (b.present (.event (encode .stop))).1 (b.present .reset).1 ∧
    (b.present (.event (encode .stop))).1 = { (b.present .reset).1 with qp := b.qp } ∧
    (b.present .reset).1.qp = 25 ∧
    (b.present (.event (encode .stop))).2 = .stopped ∧ (b.present .reset).2 = .none

/-- 20_memory.md R60: nothing buffered before an accepted STOP can be seen after it, in any run, and no event but
BEGIN and reset has any effect on the block until the next accepted BEGIN. -/
def Obligations.StopIsABarrier : Prop :=
  ∀ b c : Block, b.lst = .listening → c.lst = .listening →
    ObservationallyEqual (b.present (.event (encode .stop))).1 (c.present (.event (encode .stop))).1 ∧
    (∀ is : List Instr, (∀ i ∈ is, ∀ a, i ≠ .begin a) →
      (b.present (.event (encode .stop))).1.after (eventInputs is) = (b.present (.event (encode .stop))).1 ∧
      ∀ r ∈ (b.present (.event (encode .stop))).1.results (eventInputs is), r.isDecoded = false ∧ r ≠ .stopped)

/-- 43_lifecycle.md R143: in any run of events READY and STOPPED alternate, READY first after reset, and every
KEYPAD and READER lies between a READY and the next STOPPED. -/
def Obligations.ReadyAndStoppedAlternate : Prop :=
  (∀ ws : List EventWord, alternates false (Block.reset.results (ws.map Input.event)) = true) ∧
  (∀ (b : Block) (ws : List EventWord), b.lst = .listening →
    alternates true (b.results (ws.map Input.event)) = true)

/-- 60_exceptions.md R166: a step of one instance reads and writes no other, and steps of two instances can be
taken in either order. The list, and that an index past its end does nothing, are the model's (log entry 9). -/
def Obligations.InstancesShareNothing : Prop :=
  ∀ (k : Nat) (sys : List State), ∃ sys' : List State, stepInstance k sys = .next sys' ∧
    sys'.length = sys.length ∧ (∀ j ≠ k, sys'[j]? = sys[j]?) ∧
    (∀ s, sys[k]? = some s → ∃ t, step s = .next t ∧ sys'[k]? = some t) ∧
    (∀ j ≠ k, ∃ kj jk : List State, stepInstance j sys' = .next kj ∧
      stepInstance j sys = .next jk ∧ stepInstance k jk = .next kj)

/-- 70_reset_and_hazards.md R189, in ticks: edges `g` apart have QP ticks or more between them if g >= QP*T, fewer if
g <= (QP-1)*T, and the QP-th boundary after `t` lies after t + (QP-1)*T and at or before t + QP*T. The tick
count is the model's reading of the tick period T and phase ph (log entry 8). -/
def Obligations.TickCountsOfRealTimeGaps : Prop :=
  ∀ (T ph t u q : Nat), ph < T → t ≤ u → 1 ≤ q →
    (q * T ≤ u - t → q ≤ ticksBetween T ph t u) ∧
    (u - t ≤ (q - 1) * T → ticksBetween T ph t u < q) ∧
    t + (q - 1) * T < nthBoundaryAfter T ph t q ∧ nthBoundaryAfter T ph t q ≤ t + q * T ∧
    ticksBetween T ph t (nthBoundaryAfter T ph t q) = q

/-- 70_reset_and_hazards.md R189 and R182, on the wires: of two edges presented with the time base, tick first where
they coincide, the second starts a new run if they are QP*T or more apart, and joins the first if they are at
most (QP-1)*T apart. The time base is the model's reading (log entry 8). -/
def Obligations.EdgesOnTheWiresSeparateOrMerge : Prop :=
  ∀ (b : Block) (T ph now t u : Nat) (x y : Bool), b.Inv → b.phase = .empty → ph < T → now ≤ t → t ≤ u →
    (b.qp.toNat * T ≤ u - t →
      (b.after (wireInputs T ph now [(t, x), (u, y)] u)).cnt = 1 ∧
      (b.after (wireInputs T ph now [(t, x), (u, y)] u)).cell 0 = y) ∧
    (u - t ≤ (b.qp.toNat - 1) * T →
      (b.after (wireInputs T ph now [(t, x), (u, y)] u)).cnt = 2 ∧
      (b.after (wireInputs T ph now [(t, x), (u, y)] u)).cell 0 = x ∧
      (b.after (wireInputs T ph now [(t, x), (u, y)] u)).cell 1 = y)

/-- 42_parity_validator.md R128 a, 00_scope.md R10: `val` of k bits is below 2^k, and distinct lists of one length
have distinct values, so forming a value loses nothing. -/
def Obligations.ValIsExactOnLists : Prop :=
  (∀ L : List Bool, val L < 2 ^ L.length) ∧
  (∀ L M : List Bool, L.length = M.length → val L = val M → L = M) ∧
  (∀ (L : List Bool), val L = ∑ j ∈ Finset.range L.length, (L.getD j false).toNat * 2 ^ (L.length - 1 - j))

/-- 60_exceptions.md R165, R166: every instance starts in the reset state, with its own event port, and in any
interleaving an instance ends as if its own steps had been taken alone, whatever the others do. The model's choices in
it: that the result before any step is NONE (log entry 3), where the inputs stand (log entry 1), the list, and that
an index past its end does nothing (log entry 9). -/
def Obligations.InstancesStartInResetAndRunAsIfAlone : Prop :=
  (∀ (ports : List (List Input)), (resetSystem ports).length = ports.length ∧
    (∀ (k : Nat) (p : List Input), ports[k]? = some p →
      ∃ s, (resetSystem ports)[k]? = some s ∧ s.block = State.reset.block ∧ s.result = .none ∧ s.inputs = p)) ∧
  (∀ (order : List Nat) (sys : List State), ∃ sys' : List State, runInstances order sys = .next sys' ∧
    sys'.length = sys.length ∧
    (∀ (k : Nat) (s : State), sys[k]? = some s →
      ∃ t, runAlone (order.count k) s = .next t ∧ sys'[k]? = some t))
end

