-- ==== Sys2Proof/Laws/Decode.lean ====
section
/-! SUPPORT. The fields of an event word, and the sixteen cases of decoding. -/

namespace Sys2Proof

@[simp] theorem opField_append (o : BitVec 4) (a : Ticks) : opField (o ++ a) = o := by
  apply BitVec.eq_of_getLsbD_eq
  intro i hi
  rw [opField, BitVec.getLsbD_extractLsb', BitVec.getLsbD_append]
  simp [hi]

@[simp] theorem argField_append (o : BitVec 4) (a : Ticks) : argField (o ++ a) = a := by
  apply BitVec.eq_of_getLsbD_eq
  intro i hi
  rw [argField, BitVec.getLsbD_extractLsb', BitVec.getLsbD_append]
  simp [hi]

/-- The table's mask keeps `op` and clears `arg`. -/
theorem append_and_mask (o : BitVec 4) (a : Ticks) : (o ++ a) &&& 0xF0000 = o ++ (0 : Ticks) := by
  apply BitVec.eq_of_getLsbD_eq
  intro i hi
  have hm : (0xF0000 : EventWord).getLsbD i = decide (16 ≤ i) := by
    revert i; decide
  rw [BitVec.getLsbD_and, hm, BitVec.getLsbD_append, BitVec.getLsbD_append]
  by_cases h : i < 16
  · simp [h]
  · simp [h]; omega

/-- An event word is its two fields. -/
theorem word_eq_fields (w : EventWord) : opField w ++ argField w = w := by
  apply BitVec.eq_of_getLsbD_eq
  intro i hi
  simp only [opField, argField, BitVec.getLsbD_append, BitVec.getLsbD_extractLsb']
  by_cases h : i < 16
  · simp [h]
  · simp [h, show i - 16 < 4 by omega, show 16 + (i - 16) = i by omega]

/-- The sixteen codes. -/
theorem op_cases (o : BitVec 4) : o = 0 ∨ o = 1 ∨ o = 2 ∨ o = 3 ∨ o = 4 ∨ o = 5 ∨ o = 6 ∨ o = 7 ∨ o = 8 ∨
    o = 9 ∨ o = 10 ∨ o = 11 ∨ o = 12 ∨ o = 13 ∨ o = 14 ∨ o = 15 := by
  revert o; decide

/-- What a word decodes to, code by code (30_encoding.md R71). -/
theorem decode_cases (w : EventWord) :
    (opField w = 0 ∧ decode w = .nop) ∨
    (opField w = 1 ∧ decode w = .d0) ∨
    (opField w = 2 ∧ decode w = .d1) ∨
    (opField w = 3 ∧ decode w = .tick) ∨
    (opField w = 4 ∧ decode w = .begin (argField w)) ∨
    (opField w = 5 ∧ decode w = .stop) ∨
    (opField w = 6 ∧ decode w = .rsvd6) ∨
    (opField w = 7 ∧ decode w = .rsvd7) ∨
    (opField w = 8 ∧ decode w = .rsvd8) ∨
    (opField w = 9 ∧ decode w = .rsvd9) ∨
    (opField w = 10 ∧ decode w = .rsvd10) ∨
    (opField w = 11 ∧ decode w = .rsvd11) ∨
    (opField w = 12 ∧ decode w = .rsvd12) ∨
    (opField w = 13 ∧ decode w = .rsvd13) ∨
    (opField w = 14 ∧ decode w = .rsvd14) ∨
    (opField w = 15 ∧ decode w = .rsvd15) := by
  rcases op_cases (opField w) with h | h | h | h | h | h | h | h | h | h | h | h | h | h | h | h <;>
    simp [decode, h]

/-- The code of the decoded event is the word's. -/
theorem decode_op (w : EventWord) : (decode w).op = opField w := by
  rcases op_cases (opField w) with h | h | h | h | h | h | h | h | h | h | h | h | h | h | h | h <;>
    simp [decode, h, Instr.op]

/-- The operand of the decoded event is the word's for BEGIN, and 0 otherwise (R72). -/
theorem decode_arg (w : EventWord) : (decode w).arg = if opField w = 4 then argField w else 0 := by
  rcases op_cases (opField w) with h | h | h | h | h | h | h | h | h | h | h | h | h | h | h | h <;>
    simp [decode, h, Instr.arg]

/-- An event is its code and its operand. -/
theorem Instr.ext_fields {i j : Instr} (ho : i.op = j.op) (ha : i.arg = j.arg) : i = j := by
  cases i <;> cases j <;> simp_all [Instr.op, Instr.arg]

end Sys2Proof
end

