-- ==== Sys2Proof/Laws/State.lean ====
section
/-! SUPPORT. One small lemma for each field and each shared operation, so that no proof unfolds a record update. -/

namespace Sys2Proof.Machine

variable (b : Block) (s : State) (bit : Bool)

@[simp] theorem Block.clear_lst : b.clear.lst = b.lst := rfl
@[simp] theorem Block.clear_qp : b.clear.qp = b.qp := rfl
@[simp] theorem Block.clear_buf : b.clear.buf = Vector.replicate 34 false := rfl
@[simp] theorem Block.clear_cnt : b.clear.cnt = 0 := rfl
@[simp] theorem Block.clear_armed : b.clear.armed = false := rfl
@[simp] theorem Block.clear_tmr : b.clear.tmr = 0 := rfl

@[simp] theorem Block.append_lst : (b.append bit).lst = b.lst := by unfold append; split <;> rfl
@[simp] theorem Block.append_qp : (b.append bit).qp = b.qp := by unfold append; split <;> rfl
@[simp] theorem Block.append_armed : (b.append bit).armed = b.armed := by unfold append; split <;> rfl
@[simp] theorem Block.append_tmr : (b.append bit).tmr = b.tmr := by unfold append; split <;> rfl

@[simp] theorem Block.edge_lst : (b.edge bit).lst = b.lst := b.append_lst bit
@[simp] theorem Block.edge_qp : (b.edge bit).qp = b.qp := b.append_qp bit
@[simp] theorem Block.edge_buf : (b.edge bit).buf = (b.append bit).buf := rfl
@[simp] theorem Block.edge_cnt : (b.edge bit).cnt = (b.append bit).cnt := rfl
@[simp] theorem Block.edge_armed : (b.edge bit).armed = true := rfl
@[simp] theorem Block.edge_tmr : (b.edge bit).tmr = b.qp := rfl

@[simp] theorem State.reset_block : State.reset.block = Block.reset := rfl
@[simp] theorem State.reset_inputs : State.reset.inputs = [] := rfl
@[simp] theorem State.reset_result : State.reset.result = .none := rfl

end Sys2Proof.Machine
end

