-- ==== Sys2Proof/Laws/Ops.lean ====
section
/-! SUPPORT. One lemma for each shared operation that says everything it can do, and that the frame buffer keeps
its canonical form (10_state.md R27 V5, V7): cells from CNT up hold 0, and CNT is at most 34. -/

namespace Sys2Proof.Machine

/-- The cell of an index in range is the buffer's entry. -/
theorem Block.cell_of_lt (b : Block) {j : Nat} (hj : j < 34) : b.cell j = b.buf[j] := by
  simp [Block.cell, List.getD_eq_getElem?_getD, hj]

/-- An index past the last cell reads as 0. -/
theorem Block.cell_of_ge (b : Block) {j : Nat} (hj : 34 ≤ j) : b.cell j = false := by
  simp [Block.cell, List.getD_eq_getElem?_getD, hj]

/-- `cell` reads the buffer alone. -/
theorem Block.cell_congr {b c : Block} (h : b.buf = c.buf) (j : Nat) : b.cell j = c.cell j := by
  simp [Block.cell, h]

/-- Two buffers with equal cells are equal. -/
theorem Block.buf_ext {b c : Block} (h : ∀ j < 34, b.cell j = c.cell j) : b.buf = c.buf := by
  apply Vector.ext
  intro j hj
  simpa [Block.cell_of_lt _ hj] using h j hj

@[simp] theorem Block.clear_cell (b : Block) (j : Nat) : b.clear.cell j = false := by
  by_cases hj : j < 34
  · simp [Block.cell_of_lt _ hj]
  · exact Block.cell_of_ge _ (by omega)

/-- Append writes cell CNT and counts it while there is room (20_memory.md R52). -/
theorem Block.append_room (b : Block) (bit : Bool) (h : b.cnt.toNat < 34) :
    (b.append bit).cnt.toNat = b.cnt.toNat + 1 ∧
      ∀ j, (b.append bit).cell j = if j = b.cnt.toNat then bit else b.cell j := by
  refine ⟨?_, fun j => ?_⟩
  · simp only [Block.append, Config.bufCells, h, dite_true, BitVec.toNat_add]
    simp; omega
  · by_cases hj : j < 34
    · rw [Block.cell_of_lt _ hj, Block.cell_of_lt _ hj]
      simp only [Block.append, Config.bufCells, h, dite_true, Vector.getElem_set, eq_comm]
    · rw [Block.cell_of_ge _ (by omega), Block.cell_of_ge _ (by omega), if_neg (by omega)]

/-- Append discards the bit when 34 are held (R52). -/
theorem Block.append_full (b : Block) (bit : Bool) (h : 34 ≤ b.cnt.toNat) : b.append bit = b := by
  simp [Block.append, Nat.not_lt.mpr h]

/-- The canonical form of the frame buffer (R27 V5, V7). -/
def Block.bufferWf (b : Block) : Prop := b.cnt.toNat ≤ 34 ∧ ∀ j < 34, b.cnt.toNat ≤ j → b.cell j = false

theorem Block.append_bufferWf (b : Block) (bit : Bool) (h : b.bufferWf) : (b.append bit).bufferWf := by
  by_cases hc : b.cnt.toNat < 34
  · obtain ⟨hn, hcell⟩ := b.append_room bit hc
    refine ⟨by omega, fun j hj hle => ?_⟩
    rw [hcell, if_neg (by omega)]
    exact h.2 j hj (by omega)
  · rwa [b.append_full bit (by omega)]

theorem Block.clear_bufferWf (b : Block) : b.clear.bufferWf := by simp [Block.bufferWf]

theorem Block.reset_bufferWf : Block.reset.bufferWf := by
  have h : Block.reset.buf = Block.reset.clear.buf := rfl
  exact ⟨by decide, fun j _ _ => by rw [Block.cell_congr h]; simp⟩

@[simp] theorem Block.firstCells_length (b : Block) (n : Nat) : (b.firstCells n).length = min n 34 := by
  simp [Block.firstCells]

/-- The prefix read gives the cells in arrival order (20_memory.md R53). -/
theorem Block.firstCells_getD (b : Block) {n j : Nat} (hj : j < n) : (b.firstCells n).getD j false = b.cell j := by
  simp [Block.firstCells, Block.cell, List.getD_eq_getElem?_getD, hj]

end Sys2Proof.Machine
end

