-- ==== Sys2Proof/Laws/Exec.lean ====
section
/-! SUPPORT. What each event can do, said once: every arm of `exec` ends the step with a block and a result that
are a function of the block and the event (`react`), and a step is a reset or such a reaction. Proofs cite
these and do not unfold `exec` or `step`. -/

namespace Sys2Proof.Machine

/-- The block and the result an event leads to, arm by arm. -/
def Block.react (b : Block) : Instr → Block × Result
  | .nop => (b, .none)
  | .d0 => if b.lst = .listening then (b.edge false, .none) else (b, .none)
  | .d1 => if b.lst = .listening then (b.edge true, .none) else (b, .none)
  | .tick =>
    if b.lst = .listening ∧ b.armed = true then
      if 1 < b.tmr.toNat then ({ b with tmr := b.tmr - 1 }, .none) else (b.clear, b.timeoutResult)
    else (b, .none)
  | .begin arg =>
    if b.lst = .idle then ({ b with qp := quietPeriod arg, lst := .listening }, .ready)
    else (b, .reject .alreadyListening)
  | .stop =>
    if b.lst = .listening then ({ b.clear with lst := .idle }, .stopped) else (b, .reject .alreadyIdle)
  | .rsvd6 | .rsvd7 | .rsvd8 | .rsvd9 | .rsvd10 => (b, .reject .reservedCode)
  | .rsvd11 | .rsvd12 | .rsvd13 | .rsvd14 | .rsvd15 => (b, .reject .reservedCode)

theorem State.onEdge_react (s : State) (bit : Bool) :
    s.onEdge bit = if s.block.lst = .listening then s.finish (s.block.edge bit) .none
      else s.finish s.block .none := by
  cases h : s.block.lst <;> simp [State.onEdge, h]

theorem exec_react (i : Instr) (s : State) :
    exec i s = s.finish (s.block.react i).1 (s.block.react i).2 := by
  cases i with
  | d0 => simp only [exec, execD0, State.onEdge_react, Block.react]; split <;> rfl
  | d1 => simp only [exec, execD1, State.onEdge_react, Block.react]; split <;> rfl
  | tick => simp only [exec, execTick, State.timeout, Block.react]; repeat' split
            all_goals rfl
  | begin arg => cases h : s.block.lst <;> simp [exec, execBegin, State.reject, Block.react, h]
  | stop => cases h : s.block.lst <;> simp [exec, execStop, State.reject, Block.react, h]
  | _ => rfl

/-- Reset leads to the reset state from every state (70_reset_and_hazards.md R175). -/
theorem State.applyReset_eq (s : State) : s.applyReset = s.finish Block.reset .none := rfl

/-- A step takes the next input; an empty event port holds the word of NOP. -/
theorem step_cases (s : State) :
    (s.inputs = [] ∧ step s = s.finish s.block .none) ∨
    (∃ rest, s.inputs = .reset :: rest ∧
      step s = State.finish Block.reset .none { s with inputs := rest }) ∨
    (∃ w rest, s.inputs = .event w :: rest ∧
      step s = State.finish (s.block.react (decode w)).1 (s.block.react (decode w)).2 { s with inputs := rest }) := by
  match h : s.inputs with
  | [] =>
    refine .inl ⟨rfl, ?_⟩
    simp only [step, State.nextInput, h]
    exact exec_react .nop s
  | .reset :: rest => exact .inr (.inl ⟨rest, rfl, by simp only [step, State.nextInput, h]; rfl⟩)
  | .event w :: rest =>
    exact .inr (.inr ⟨w, rest, rfl, by simp only [step, State.nextInput, h]; exact exec_react _ _⟩)

@[simp] theorem Block.present_reset (b : Block) : b.present .reset = (Block.reset, .none) := rfl

@[simp] theorem Block.present_event (b : Block) (w : EventWord) : b.present (.event w) = b.react (decode w) := by
  simp [Block.present, step, State.nextInput, exec_react, State.finish]

theorem Block.after_append (b : Block) (is js : List Input) : b.after (is ++ js) = (b.after is).after js := by
  induction is generalizing b with
  | nil => rfl
  | cons i is ih => simpa [Block.after] using ih _

theorem Block.results_append (b : Block) (is js : List Input) :
    b.results (is ++ js) = b.results is ++ (b.after is).results js := by
  induction is generalizing b with
  | nil => rfl
  | cons i is ih => simpa [Block.after, Block.results] using ih _

@[simp] theorem Block.results_length (b : Block) (is : List Input) : (b.results is).length = is.length := by
  induction is generalizing b with
  | nil => rfl
  | cons i is ih => simp [Block.results, ih]

end Sys2Proof.Machine
end

