-- ==== Sys2Proof/Laws/Instances.lean ====
section
/-! SUPPORT. What a step of a system of instances, and a run of one, can do, said once. -/

namespace Sys2Proof.Machine

/-- A step always answers a next state (30_encoding.md R75). -/
theorem step_next (s : State) : ∃ t, step s = .next t := by
  rcases step_cases s with ⟨_, h⟩ | ⟨_, _, h⟩ | ⟨_, _, _, h⟩ <;> exact ⟨_, h⟩

/-- The step of an instance of the system replaces that instance. -/
theorem stepInstance_of_step {k : Nat} {sys : List State} {s t : State} (hk : sys[k]? = some s)
    (h : step s = .next t) : stepInstance k sys = .next (sys.set k t) := by
  simp only [stepInstance, hk, h]

/-- An index past the end names no instance (log entry 9). -/
theorem stepInstance_past_end {k : Nat} {sys : List State} (hk : sys[k]? = Option.none) :
    stepInstance k sys = .next sys := by
  simp only [stepInstance, hk]

@[simp] theorem runInstances_nil (sys : List State) : runInstances [] sys = .next sys := rfl

theorem runInstances_cons {k : Nat} {ks : List Nat} {sys sys' : List State} (h : stepInstance k sys = .next sys') :
    runInstances (k :: ks) sys = runInstances ks sys' := by
  simp only [runInstances, h]

@[simp] theorem runAlone_zero (s : State) : runAlone 0 s = .next s := rfl

theorem runAlone_succ {n : Nat} {s t : State} (h : step s = .next t) : runAlone (n + 1) s = runAlone n t := by
  simp only [runAlone, h]

end Sys2Proof.Machine
end

