-- ==== Sys2Proof/Laws/PerInstr.lean ====
section
/-! SUPPORT. For every event as syntax: its word matches its row of spec/opcode_table.json, and the fields of the
word are its code and its operand. -/

namespace Sys2Proof.Laws.EncodingRow

/-- The word of an event matches the table's row, and carries `op` and `arg` in their fields. -/
def Statement (i : Instr) : Prop :=
  i.row.accepts (encode i) = true ∧ opField (encode i) = i.op ∧ argField (encode i) = i.arg ∧ i.wellFormed = true

theorem nop : Statement .nop := by unfold Statement; decide
theorem d0 : Statement .d0 := by unfold Statement; decide
theorem d1 : Statement .d1 := by unfold Statement; decide
theorem tick : Statement .tick := by unfold Statement; decide
theorem begin (arg : Ticks) : Statement (.begin arg) := by
  refine ⟨?_, opField_append _ _, argField_append _ _, rfl⟩
  simp only [OpcodeRow.accepts, Instr.row, encode, append_and_mask, Instr.op]
  decide
theorem stop : Statement .stop := by unfold Statement; decide
theorem rsvd6 : Statement .rsvd6 := by unfold Statement; decide
theorem rsvd7 : Statement .rsvd7 := by unfold Statement; decide
theorem rsvd8 : Statement .rsvd8 := by unfold Statement; decide
theorem rsvd9 : Statement .rsvd9 := by unfold Statement; decide
theorem rsvd10 : Statement .rsvd10 := by unfold Statement; decide
theorem rsvd11 : Statement .rsvd11 := by unfold Statement; decide
theorem rsvd12 : Statement .rsvd12 := by unfold Statement; decide
theorem rsvd13 : Statement .rsvd13 := by unfold Statement; decide
theorem rsvd14 : Statement .rsvd14 := by unfold Statement; decide
theorem rsvd15 : Statement .rsvd15 := by unfold Statement; decide

end Sys2Proof.Laws.EncodingRow
end

