-- ==== Sys2Proof/Tests/Slice0.lean ====
section
/-! SUPPORT. Tests. Expected words, results and states are those of the spec: 30_encoding.md (R71, R82, R84) and the
vectors of 95_test_vectors.md, named in each comment, or are worked out by hand from the rule named. The
`witness_` theorems show, for each obligation with hypotheses, states and operands that meet all of them. -/

open Sys2Proof Sys2Proof.Machine Sys2Proof.Claims

namespace Sys2Proof.Tests

/-! ### Helpers -/

/-- The bits of a binary numeral, leftmost first. -/
def bits {n : Nat} (w : BitVec n) : List Bool := (List.range n).map w.getMsbD

/-- The buffer with these bits in its first cells and 0 in the others. -/
def bufOf (L : List Bool) : Vector Bool 34 := Vector.ofFn fun i => L.getD i false

/-- Listening with quiet period `q`, these bits held, and `t` ticks left (none pending when no bit is held). -/
def held (q : Ticks) (L : List Bool) (t : Ticks) : Block :=
  { lst := .listening, qp := q, buf := bufOf L, cnt := BitVec.ofNat 6 L.length, armed := !L.isEmpty, tmr := t }

/-- E(q) and I(q) of 95_test_vectors.md section 0. -/
def E (q : Ticks) : Block := held q [] 0
def I (q : Ticks) : Block := { E q with lst := .idle }

/-- A state that holds a block, and this much input. -/
def holding (b : Block) (is : List Input := []) : State := { block := b, inputs := is, result := .none }

/-- The block and the result of an outcome that is a next state. -/
def answer : StepOutcome → Option (Block × Result)
  | .next t => some (t.block, t.result)
  | .fault _ => Option.none
  | .refused _ => Option.none

/-- The invariants of R27 are decided by looking at 34 cells. -/
theorem inv_of_checks (b : Block)
    (h : ((b.lst = .idle → b.cnt = 0 ∧ b.armed = false ∧ b.tmr = 0 ∧ ∀ i < 34, b.cell i = false) ∧
      (b.armed = true ↔ 1 ≤ b.cnt.toNat) ∧ (b.armed = true → 1 ≤ b.tmr.toNat ∧ b.tmr.toNat ≤ b.qp.toNat) ∧
      (b.armed = false → b.tmr = 0)) ∧ (∀ i < 34, b.cnt.toNat ≤ i → b.cell i = false) ∧
      (1 ≤ b.qp.toNat ∧ b.qp.toNat ≤ 65535) ∧ b.cnt.toNat ≤ 34) : b.Inv :=
  ⟨h.1.1, h.1.2.1, h.1.2.2.1, h.1.2.2.2, h.2.1, h.2.2.1, h.2.2.2⟩

/-! ### WellFormed: an ill-formed term for each check, refused -/

theorem test_wf_number_too_long : isEventWord 0x100000 = false := by decide
theorem test_wf_number_longest : isEventWord 0xFFFFF = true := by decide
theorem test_wf_begin_too_long : (Line.begin 65536).wellFormed = false := by decide
theorem test_wf_begin_longest : (Line.begin 65535).wellFormed = true := by decide
theorem test_wf_rsvd_below : (Line.rsvd 5).wellFormed = false := by decide
theorem test_wf_rsvd_above : (Line.rsvd 16).wellFormed = false := by decide
theorem test_wf_rsvd_ends : (Line.rsvd 6).wellFormed = true ∧ (Line.rsvd 15).wellFormed = true := by decide
theorem test_decode_rejects_by_name :
    (match decodeNumber 0x100000 with | .error r => some r | .ok _ => Option.none) = some .notAnEventWord := by decide

/-! ### Decode: a word for every constructor, from R71 and vectors T1a to T1r -/

theorem test_decode_nop : decode 0x00000 = .nop ∧ decode 0x0FFFF = .nop := by decide
theorem test_decode_d0 : decode 0x10000 = .d0 ∧ decode 0x1ABCD = .d0 := by decide
theorem test_decode_d1 : decode 0x20000 = .d1 ∧ decode 0x20001 = .d1 := by decide
theorem test_decode_tick : decode 0x30000 = .tick ∧ decode 0x3FFFF = .tick := by decide
theorem test_decode_begin : decode 0x40000 = .begin 0 ∧ decode 0x40019 = .begin 25 ∧
    decode 0x40001 = .begin 1 ∧ decode 0x4FFFF = .begin 65535 := by decide
theorem test_decode_stop : decode 0x50000 = .stop ∧ decode 0x5DEAD = .stop := by decide
theorem test_decode_rsvd : decode 0x60000 = .rsvd6 ∧ decode 0x70000 = .rsvd7 ∧ decode 0x80000 = .rsvd8 ∧
    decode 0x9C0DE = .rsvd9 ∧ decode 0xA0000 = .rsvd10 ∧ decode 0xB0000 = .rsvd11 ∧ decode 0xC0000 = .rsvd12 ∧
    decode 0xD0000 = .rsvd13 ∧ decode 0xE0000 = .rsvd14 ∧ decode 0xF0000 = .rsvd15 ∧
    decode 0xFFFFF = .rsvd15 := by decide
/-- 0100 then 0000 0000 0001 1001: op 4, arg 25 (R70, R71). -/
theorem test_decode_bit_by_bit : decode 0b01000000000000011001 = .begin 25 := by decide
theorem test_decode_table_word : decodeTableWord 24 0x40003 = some (.begin 3) ∧
    decodeTableWord 24 0x100000 = Option.none := by decide
theorem test_table_word_runs_next :
    answer (step (holding (I 25) [.reset] |>.withFetchWord 24 0x40003)) = some (E 3, .ready) := by decide

/-! ### The meanings, one step each -/

/-- T5: NOP while Listening. -/
theorem test_nop : answer (execNop (holding (held 3 (bits 0b10#2) 2))) = some (held 3 (bits 0b10#2) 2, .none) := by
  decide
/-- T6. -/
theorem test_d0_first : answer (execD0 (holding (E 3))) = some (held 3 (bits 0b0#1) 3, .none) := by decide
/-- T17: the 35th bit is not stored, the timer restarts from 1 to 2. -/
theorem test_d0_full : answer (execD0 (holding (held 2 (bits 0x3FFFFFFFF#34) 1))) =
    some (held 2 (bits 0x3FFFFFFFF#34) 2, .none) := by decide
/-- T16: the 34th bit goes into BUF[33]. -/
theorem test_d1_34th : answer (execD1 (holding (held 2 (bits 0x1FFFFFFFF#33) 2))) =
    some (held 2 (bits 0x3FFFFFFFF#34) 2, .none) := by decide
/-- T4: an edge while Idle is ignored. -/
theorem test_d1_idle : answer (execD1 (holding (I 25))) = some (I 25, .none) := by decide
/-- T8: TMR 3 to 2. -/
theorem test_tick_counts : answer (execTick (holding (held 3 (bits 0b1#1) 3))) = some (held 3 (bits 0b1#1) 2, .none) := by
  decide
/-- S2: the 25th tick. -/
theorem test_tick_keypad : answer (execTick (holding (held 25 (bits 0b1011#4) 1))) = some (E 25, .keypad 11) := by
  decide
/-- T38, T38c. -/
theorem test_begin : answer (execBegin 0 (holding (I 7))) = some (E 25, .ready) ∧
    answer (execBegin 65535 (holding (I 25))) = some (E 65535, .ready) := by decide
/-- T39b: rejected in mid-run. -/
theorem test_begin_listening : answer (execBegin 9 (holding (held 7 (bits 0b101#3) 6))) =
    some (held 7 (bits 0b101#3) 6, .reject .alreadyListening) := by decide
/-- T42: STOP one tick before the timeout. -/
theorem test_stop : answer (execStop (holding (held 2 (bits 0b1011#4) 1))) = some (I 2, .stopped) := by decide
/-- T40b. -/
theorem test_stop_idle : answer (execStop (holding (I 7))) = some (I 7, .reject .alreadyIdle) := by decide
/-- T43, T43b, and the other reserved codes as R140 says. -/
theorem test_rsvd : answer (execRsvd6 (holding (I 25))) = some (I 25, .reject .reservedCode) ∧
    answer (execRsvd15 (holding (held 3 (bits 0b10#2) 3))) = some (held 3 (bits 0b10#2) 3, .reject .reservedCode) := by
  decide
theorem test_rsvd_others : ∀ i ∈ [Instr.rsvd7, .rsvd8, .rsvd9, .rsvd10, .rsvd11, .rsvd12, .rsvd13, .rsvd14],
    answer (exec i (holding (E 1))) = some (E 1, .reject .reservedCode) := by decide
/-- T47: reset in mid-run, QP back to 25; the event word is ignored (section 2.6). -/
theorem test_reset : answer (step (holding (held 7 (bits 0b1011#4) 6) [inputOfPins true 0x40003])) =
    some (I 25, .none) := by decide

/-! ### The timeout on frames: what the firing TICK yields -/

/-- The result of the timeout of a frame of these bits. -/
def fires {n : Nat} (w : BitVec n) : Option Result := (answer (execTick (holding (held 1 (bits w) 1)))).map (·.2)

/-- T28, T31, T32, T33, T33b, T33c: the weights and the halves of a frame of 26 bits. -/
theorem test_short_frames : fires 0b10000000100000000000000010#26 = some (.reader 65537) ∧
    fires 0b00000000000000000000000001#26 = some (.reader 0) ∧
    fires 0b01111111111111111111111111#26 = some (.reader 16777215) ∧
    fires 0b11000000000000000000000010#26 = some (.reader 8388609) ∧
    fires 0b00000000000001000000000000#26 = some (.reader 2048) ∧
    fires 0b10000000000010000000000001#26 = some (.reader 4096) := by decide
/-- T30b, T30c, T30d, T29: parity fails, nothing comes out. -/
theorem test_short_parity : fires 0b00000000100000000000000010#26 = some .none ∧
    fires 0b10000000100000000000000011#26 = some .none ∧
    fires 0b00000000100000000000000011#26 = some .none ∧
    fires 0b10110000000000000000000000#26 = some .none := by decide
/-- T20, T22, T23, T24, T24b: frames of 34 bits. -/
theorem test_long_frames : fires 0b0101010101010101010101010101010101#34 = some (.reader 2863311530) ∧
    fires 0b0111111111111111111111111111111111#34 = some (.reader 4294967295) ∧
    fires 0b1100000000000000000000000000000010#34 = some (.reader 2147483649) ∧
    fires 0b0101000101010101010101010101010101#34 = some .none ∧
    fires 0b0101010101010101010111010101010101#34 = some .none := by decide
/-- T26, T27, T28b, T28c: the longest match alone, a tail of up to 7 bits ignored. -/
theorem test_longest_match : fires 0b1000000010000000000000001010000000#34 = some .none ∧
    fires 0b1000000010000000000000001000000000#34 = some (.reader 16777472) ∧
    fires 0b100000001000000000000000101111111#33 = some (.reader 65537) ∧
    fires 0b100000001000000000000000100#27 = some (.reader 65537) := by decide
/-- S5, T29b, T29c, T29d: lengths that match nothing. -/
theorem test_dropped_lengths : fires 0b101#3 = some .none ∧ fires 0b10110#5 = some .none ∧
    fires 0b10110110#8 = some .none ∧ fires 0b1000000010000000000000001#25 = some .none := by decide
/-- T2d to T2l. -/
theorem test_result_words : (Result.reader 0).word = 0x200000000 ∧ (Result.reader 65537).word = 0x200010001 ∧
    (Result.reader 4294967295).word = 0x2FFFFFFFF ∧ Result.ready.word = 0x300000000 ∧
    Result.stopped.word = 0x400000000 ∧ (Result.reject .alreadyListening).word = 0x500000001 ∧
    (Result.reject .alreadyIdle).word = 0x500000002 ∧ (Result.reject .reservedCode).word = 0x500000003 := by decide

/-! ### Witnesses of the hypotheses of the obligations -/

theorem witness_DecodeAndEncodeAgree : (Instr.begin 65535).wellFormed = true ∧ Instr.rsvd15.wellFormed = true := by
  decide

/-- Words that differ in `arg` only, of BEGIN and of another event. -/
theorem witness_OnlyBeginReadsItsArgument : opField 0x4FFFF = 4 ∧ opField 0x40000 = 4 ∧
    (opField 0x1ABCD = opField 0x10000 ∧ (opField 0x1ABCD = 4 → argField 0x1ABCD = argField 0x10000)) := by decide

/-- Steps whose result is of kind 0, 3, 4, 1 and 5; and equal words of equal results. -/
theorem witness_ResultWordsAreWellFormed :
    (∃ s t, step s = .next t ∧ kindField t.resultWord = 0) ∧ (∃ s t, step s = .next t ∧ kindField t.resultWord = 3) ∧
    (∃ s t, step s = .next t ∧ kindField t.resultWord = 4) ∧ (∃ s t, step s = .next t ∧ kindField t.resultWord = 1) ∧
    (∃ s t, step s = .next t ∧ kindField t.resultWord = 5) ∧ Result.ready.word = Result.ready.word :=
  ⟨⟨holding (E 1), _, rfl, by decide⟩, ⟨holding (I 1) [.event 0x40003], _, rfl, by decide⟩,
    ⟨holding (E 1) [.event 0x50000], _, rfl, by decide⟩,
    ⟨holding (held 1 (bits 0b1011#4) 1) [.event 0x30000], _, rfl, by decide⟩,
    ⟨holding (E 1) [.event 0x60000], _, rfl, by decide⟩, rfl⟩

/-- Idle; Listening with none, 33 and 34 bits held; a cell other than CNT. -/
theorem witness_EdgesAppendTheirBitAndRestartTheTimer :
    (Instr.d0 = .d0 ∧ false = false ∨ Instr.d0 = .d1 ∧ false = true) ∧
    (Instr.d1 = .d0 ∧ true = false ∨ Instr.d1 = .d1 ∧ true = true) ∧ (holding (I 25)).block.lst = .idle ∧
    ((holding (E 3)).block.lst = .listening ∧ (holding (E 3)).block.cnt.toNat < 34) ∧
    ((held 3 (bits 0x1FFFFFFFF#33) 3).lst = .listening ∧ (held 3 (bits 0x1FFFFFFFF#33) 3).cnt.toNat = 33 ∧
      32 ≠ (held 3 (bits 0x1FFFFFFFF#33) 3).cnt.toNat) ∧
    ((held 3 (bits 0x3FFFFFFFF#34) 3).lst = .listening ∧ 34 ≤ (held 3 (bits 0x3FFFFFFFF#34) 3).cnt.toNat) := by
  decide

/-- Idle, Listening without a timer, TMR = 2 and TMR = 1. -/
theorem witness_TickIgnoresCountsDownOrFires :
    ¬((I 3).lst = .listening ∧ (I 3).armed = true) ∧ ¬((E 3).lst = .listening ∧ (E 3).armed = true) ∧
    ((held 3 [true] 2).lst = .listening ∧ (held 3 [true] 2).armed = true ∧ 1 < (held 3 [true] 2).tmr.toNat) ∧
    Firing (holding (held 3 [true] 1)) := by
  refine ⟨by decide, by decide, by decide, ?_⟩; unfold Firing; decide

/-- Firing with 3 and with 4 bits held, and a quiet period that is not 0. -/
theorem witness_TimeoutClassifiesThenClears :
    (Firing (holding (held 1 (bits 0b101#3) 1)) ∧ (held 1 (bits 0b101#3) 1).cnt.toNat = 3) ∧
    (Firing (holding (held 65535 (bits 0b1011#4) 1)) ∧ 4 ≤ (held 65535 (bits 0b1011#4) 1).cnt.toNat ∧
      (held 65535 (bits 0b1011#4) 1).qp ≠ 0) := by unfold Firing; decide

/-- Firing with 3, 4, 5 and 25 bits held. -/
theorem witness_KeypadFrameAndDroppedLengths :
    (Firing (holding (held 1 (bits 0b1011#4) 1)) ∧ (held 1 (bits 0b1011#4) 1).cnt.toNat ≤ 25 ∧
      (held 1 (bits 0b1011#4) 1).cnt.toNat = 4) ∧
    (∀ n ∈ [3, 5, 25], Firing (holding (held 1 (List.replicate n true) 1)) ∧
      (held 1 (List.replicate n true) 1).cnt.toNat ≤ 25 ∧ (held 1 (List.replicate n true) 1).cnt.toNat ≠ 4) := by
  unfold Firing; decide

/-- Firing with 26, 33 and 34 bits held, of frames that pass and of one that does not. -/
theorem witness_ReaderFramesAreValidated :
    (∀ b ∈ [held 1 (bits 0b10000000100000000000000010#26) 1, held 1 (bits 0b100000001000000000000000101111111#33) 1],
      Firing (holding b) ∧ 26 ≤ b.cnt.toNat ∧ b.cnt.toNat ≤ 33 ∧ onesIn b 0 13 % 2 = 0 ∧ onesIn b 13 26 % 2 = 1) ∧
    (∀ b ∈ [held 1 (bits 0b10000000100000000000000011#26) 1],
      Firing (holding b) ∧ 26 ≤ b.cnt.toNat ∧ b.cnt.toNat ≤ 33 ∧ ¬(onesIn b 0 13 % 2 = 0 ∧ onesIn b 13 26 % 2 = 1)) ∧
    (∀ b ∈ [held 1 (bits 0b0101010101010101010101010101010101#34) 1],
      Firing (holding b) ∧ 34 ≤ b.cnt.toNat ∧ onesIn b 0 17 % 2 = 0 ∧ onesIn b 17 34 % 2 = 1) := by
  unfold Firing; decide

theorem witness_ParityChecksAreExclusiveOrs : (List.replicate 26 true).length = ReaderLength.short.bits ∧
    (List.replicate 34 true).length = ReaderLength.long.bits := by decide

/-- The first bit of T28's frame and the last bit of T20's. -/
theorem witness_SingleBitErrorsAreDropped :
    (Firing (holding (held 1 (bits 0b10000000100000000000000010#26) 1)) ∧
      holdsReader .short (held 1 (bits 0b10000000100000000000000010#26) 1).cnt ∧ 0 < ReaderLength.short.bits ∧
      ∃ t, exec .tick (holding (held 1 (bits 0b10000000100000000000000010#26) 1)) = .next t ∧ t.result = .reader 65537) ∧
    (Firing (holding (held 1 (bits 0b0101010101010101010101010101010101#34) 1)) ∧
      holdsReader .long (held 1 (bits 0b0101010101010101010101010101010101#34) 1).cnt ∧ 33 < ReaderLength.long.bits ∧
      ∃ t, exec .tick (holding (held 1 (bits 0b0101010101010101010101010101010101#34) 1)) = .next t ∧
        t.result = .reader 2863311530) := by
  unfold Firing holdsReader
  exact ⟨⟨by decide, by decide, by decide, _, rfl, by decide⟩, ⟨by decide, by decide, by decide, _, rfl, by decide⟩⟩

theorem witness_EveryValueHasExactlyOneFrame : (16777215 : Value).toNat < 2 ^ (ReaderLength.short.bits - 2) ∧
    (4294967295 : Value).toNat < 2 ^ (ReaderLength.long.bits - 2) := by decide

/-- An Idle and a Listening state: the hypotheses of the statements on BEGIN, STOP, and the runs after them. -/
theorem witness_lifecycle_states : (holding (I 7)).block.lst = .idle ∧ (holding (held 7 [true, false, true] 6)).block.lst = .listening ∧
    (E 1).lst = .listening ∧ (held 2 (bits 0b1011#4) 1).lst = .listening := by decide

theorem witness_ReservedCodesAreRejected : 6 ≤ (opField 0x60000).toNat ∧ 6 ≤ (opField 0xFFFFF).toNat ∧
    Instr.rsvd6 ∈ [Instr.rsvd6, .rsvd7, .rsvd8, .rsvd9, .rsvd10, .rsvd11, .rsvd12, .rsvd13, .rsvd14, .rsvd15] := by decide

/-- Each cause of a REJECT occurs. -/
theorem witness_RejectsHaveExactlyTheseCauses :
    (∃ t, exec (.begin 9) (holding (E 7)) = .next t ∧ t.result = .reject .alreadyListening) ∧
    (∃ t, exec .stop (holding (I 7)) = .next t ∧ t.result = .reject .alreadyIdle) ∧
    (∃ t, exec .rsvd6 (holding (I 7)) = .next t ∧ t.result = .reject .reservedCode) :=
  ⟨⟨_, rfl, rfl⟩, ⟨_, rfl, rfl⟩, ⟨_, rfl, rfl⟩⟩

theorem witness_StepRunsTheDecodedEvent :
    (holding (E 1) [.event 0x30000, .reset]).inputs = .event 0x30000 :: [.reset] ∧
    (holding (E 1) [.reset]).inputs = .reset :: [] ∧ (holding (E 1)).inputs = [] := by decide

theorem witness_ResetLeadsToTheResetState :
    (holding (held 7 [true] 6) [.reset, .event 0]).inputs = inputOfPins true 0xFFFFF :: [.event 0] := by decide

/-- An empty buffer, a full one about to time out, and Idle, all with the invariants; the step is next's. -/
theorem inv_E3 : (E 3).Inv := inv_of_checks _ (by decide)
theorem inv_I7 : (I 7).Inv := inv_of_checks _ (by decide)
theorem inv_E2 : (E 2).Inv := inv_of_checks _ (by decide)
theorem inv_full : (held 65535 (bits 0x3FFFFFFFF#34) 65535).Inv := inv_of_checks _ (by decide)
theorem inv_last_tick : (held 3 (bits 0b1011#4) 1).Inv := inv_of_checks _ (by decide)

theorem witness_EveryStepKeepsTheInvariants :
    ∃ s t : State, s.block.Inv ∧ step s = .next t ∧ s.block ≠ t.block :=
  ⟨holding (held 3 (bits 0b1011#4) 1) [.event 0x30000], _, inv_last_tick, rfl, by decide⟩

theorem witness_AssemblerPhaseTransitions :
    ((holding (I 7)).block.Inv ∧ (I 7).phase = .idle) ∧ ((holding (E 3)).block.Inv ∧ (E 3).phase = .empty) ∧
    ((holding (held 3 (bits 0b1011#4) 1)).block.Inv ∧ (held 3 (bits 0b1011#4) 1).phase = .accum) ∧
    (∀ a, Instr.stop ≠ .begin a) ∧ (holding (E 3) [.reset]).inputs = .reset :: [] :=
  ⟨⟨inv_I7, rfl⟩, ⟨inv_E3, rfl⟩, ⟨inv_last_tick, rfl⟩, nofun, rfl⟩

/-- Each element is written by some event. -/
theorem witness_EventsWriteOnlyWhatTheAccessTableLists :
    (∃ t, exec (.begin 3) (holding (I 7)) = .next t ∧ t.block.lst ≠ (I 7).lst ∧ t.block.qp ≠ (I 7).qp) ∧
    (∃ t, exec .stop (holding (E 7)) = .next t ∧ t.block.lst ≠ (E 7).lst) ∧
    (∃ t, exec .d1 (holding (E 7)) = .next t ∧ t.block.cell 0 ≠ (E 7).cell 0 ∧ t.block.cnt ≠ (E 7).cnt ∧
      t.block.armed ≠ (E 7).armed ∧ t.block.tmr ≠ (E 7).tmr) ∧
    (∃ t, exec .tick (holding (held 3 (bits 0b1011#4) 1)) = .next t ∧ t.block.cell 3 ≠ (held 3 (bits 0b1011#4) 1).cell 3 ∧
      t.block.cnt ≠ (held 3 (bits 0b1011#4) 1).cnt ∧ t.block.armed ≠ (held 3 (bits 0b1011#4) 1).armed ∧
      t.block.tmr ≠ (held 3 (bits 0b1011#4) 1).tmr) :=
  ⟨⟨_, rfl, by decide, by decide⟩, ⟨_, rfl, by decide⟩, ⟨_, rfl, by decide, by decide, by decide, by decide⟩,
    ⟨_, rfl, by decide, by decide, by decide, by decide⟩⟩

/-- A TICK that does not fire, and an edge. -/
theorem witness_OnlyTheFiringTickReadsTheBuffer :
    ¬(Instr.tick = .tick ∧ (held 3 [true] 2).lst = .listening ∧ (held 3 [true] 2).armed = true ∧
      (held 3 [true] 2).tmr.toNat ≤ 1) ∧
    ¬(Instr.d0 = .tick ∧ (held 3 [true] 1).lst = .listening ∧ (held 3 [true] 1).armed = true ∧
      (held 3 [true] 1).tmr.toNat ≤ 1) := by decide

/-- 4, 26 and 34 bits held, with other cells past those: different buffers. -/
theorem witness_TimeoutReadsOnlyTheLeadingCells :
    (Firing (holding (held 1 (bits 0b1011#4) 1)) ∧
      (∀ j < prefixRead (held 1 (bits 0b1011#4) 1).cnt, (held 1 (bits 0b1011#4) 1).cell j =
        (bufOf (bits 0b10111#5)).toList.getD j false) ∧ (held 1 (bits 0b1011#4) 1).buf ≠ bufOf (bits 0b10111#5)) ∧
    (Firing (holding (held 1 (List.replicate 33 true) 1)) ∧
      (∀ j < prefixRead (held 1 (List.replicate 33 true) 1).cnt, (held 1 (List.replicate 33 true) 1).cell j =
        (bufOf (List.replicate 26 true)).toList.getD j false)) ∧
    (Firing (holding (held 1 (List.replicate 34 true) 1)) ∧
      (∀ j < prefixRead (held 1 (List.replicate 34 true) 1).cnt, (held 1 (List.replicate 34 true) 1).cell j =
        (bufOf (List.replicate 34 true)).toList.getD j false)) := by unfold Firing; decide

theorem witness_DecodedValuesComeOnlyFromTimeouts :
    ∃ t, step (holding (held 3 (bits 0b1011#4) 1) [.event 0x30000]) = .next t ∧ t.result.isDecoded = true :=
  ⟨_, rfl, by decide⟩

/-- 34 and 35 edges from an empty buffer. -/
theorem witness_EdgesStoreTheFirst34BitsInArrivalOrder : (E 3).lst = .listening ∧ (E 3).cnt = 0 ∧
    33 < min (List.replicate 34 true).length 34 ∧ min (List.replicate 35 true).length 34 = 34 := by decide

theorem witness_TheTimeoutFiresAfterExactlyTMRTicks :
    ((held 3 (bits 0b1011#4) 1).Inv ∧ (held 3 (bits 0b1011#4) 1).lst = .listening ∧ (held 3 (bits 0b1011#4) 1).armed = true ∧
      0 < (held 3 (bits 0b1011#4) 1).tmr.toNat) ∧
    ((held 65535 (bits 0x3FFFFFFFF#34) 65535).Inv ∧ (held 65535 (bits 0x3FFFFFFFF#34) 65535).lst = .listening ∧
      (held 65535 (bits 0x3FFFFFFFF#34) 65535).armed = true) ∧
    ((E 3).Inv ∧ (E 3).armed = false ∧ Instr.d0 ∉ [Instr.tick, .stop, .begin 2, .tick] ∧
      Instr.d1 ∉ [Instr.tick, .stop, .begin 2, .tick]) :=
  ⟨⟨inv_last_tick, by decide⟩, ⟨inv_full, by decide⟩, inv_E3, by decide⟩

theorem witness_AFrameYieldsWhatTheLengthMapSays : (E 3).Inv ∧ (E 3).phase = .empty ∧ bits 0b1011#4 ≠ [] :=
  ⟨inv_E3, by decide⟩

/-- A gap of QP - 1 ticks and one of QP ticks, with events between that count for nothing (S1, T43b). -/
theorem witness_QuietPeriodAloneSeparatesRuns :
    ((E 3).Inv ∧ (E 3).phase = .empty ∧ [true, false] ≠ [] ∧ [true, true] ≠ []) ∧
    ((∀ i ∈ [Instr.tick, .nop, .begin 9, .rsvd6, .tick], isGapEvent i = true) ∧
      tickCount [Instr.tick, .nop, .begin 9, .rsvd6, .tick] < (E 3).qp.toNat) ∧
    ((∀ i ∈ [Instr.tick, .nop, .tick, .tick], isGapEvent i = true) ∧
      (E 3).qp.toNat ≤ tickCount [Instr.tick, .nop, .tick, .tick]) := by
  exact ⟨⟨inv_E3, by decide⟩, by decide, by decide⟩

/-- The block with 34 cells and the list of 35 bits, related. -/
theorem witness_BoundedBufferRefinesTheUnboundedList :
    Abstracts (held 3 (List.replicate 34 true) 2) ⟨.listening, 3, List.replicate 35 true, some 2⟩ :=
  ⟨rfl, rfl, by decide, by decide, rfl⟩

theorem witness_StopIsABarrier : (held 2 (bits 0b1011#4) 1).lst = .listening ∧ (E 9).lst = .listening ∧
    (∀ i ∈ [Instr.tick, .d1, .stop, .rsvd9], ∀ a, i ≠ .begin a) := by
  refine ⟨by decide, by decide, ?_⟩
  intro i hi a h; subst h; simp at hi

/-- Two instances: one in the system takes the step, and an index past its end. -/
theorem witness_InstancesShareNothing : (1 : Nat) ≠ 0 ∧
    [holding (E 3) [.event 0x20000], holding (I 7)][0]? = some (holding (E 3) [.event 0x20000]) ∧
    (stepInstance 2 [holding (E 3), holding (I 7)] = .next [holding (E 3), holding (I 7)]) := ⟨by decide, by decide, rfl⟩

/-- R165: the second of two readers starts in the reset state, and takes its own BEGIN 3. -/
theorem test_second_reader_begins :
    (match runInstances [1] (resetSystem [[.event 0x50000], [.event 0x40003]]) with
      | .next sys => sys.map (·.block) | .fault _ => [] | .refused _ => []) = [I 25, E 3] := by decide

/-- Two ports; an order in which instance 1 steps twice and 0 once; an instance of a system. -/
theorem witness_InstancesStartInResetAndRunAsIfAlone :
    [[Input.event 0x50000], [Input.event 0x40003]][1]? = some [Input.event 0x40003] ∧
    [holding (E 3), holding (I 7) [.reset]][1]? = some (holding (I 7) [.reset]) ∧ [1, 0, 1].count 1 = 2 := by decide

/-- T = 10, phase 9, an edge on a boundary, q = 3: 3 periods on, 2 periods on. -/
theorem witness_TickCountsOfRealTimeGaps : (9 < 10 ∧ 19 ≤ 49 ∧ 1 ≤ 3 ∧ 3 * 10 ≤ 49 - 19) ∧
    (9 < 10 ∧ 19 ≤ 39 ∧ 1 ≤ 3 ∧ 39 - 19 ≤ (3 - 1) * 10) := by decide

theorem witness_EdgesOnTheWiresSeparateOrMerge :
    ((E 3).Inv ∧ (E 3).phase = .empty ∧ 9 < 10 ∧ 4 ≤ 19 ∧ 19 ≤ 49 ∧ (E 3).qp.toNat * 10 ≤ 49 - 19) ∧
    ((E 3).Inv ∧ (E 3).phase = .empty ∧ 9 < 10 ∧ 4 ≤ 19 ∧ 19 ≤ 39 ∧ 39 - 19 ≤ ((E 3).qp.toNat - 1) * 10) :=
  ⟨⟨inv_E3, by decide⟩, inv_E3, by decide⟩

theorem witness_ValIsExactOnLists : [true, false].length = [true, false].length ∧ val [true, false] = val [true, false] := by
  decide

end Sys2Proof.Tests
end

section
/-! PROOFS. A step is the step of 00_scope.md R7 on the head of the event port, and `val` of R10 as a number. -/

namespace Sys2Proof.Machine

/-! ### The step as a function of the block and the first input (R7, R167) -/

/-- An idle event port presents NOP (R90, log entry 2). -/
@[simp] theorem decode_idleWord : decode idleWord = .nop := rfl

@[simp] theorem Block.react_nop (b : Block) : b.react .nop = (b, .none) := rfl

/-- The step of R7, with its input the head of the event port: the state's `result` and the inputs after the
first do not occur in the block and the result it ends with. -/
theorem step_eq_finish_present (s : State) :
    step s = State.finish (s.block.present (s.inputs.headD (.event idleWord))).1
      (s.block.present (s.inputs.headD (.event idleWord))).2 { s with inputs := s.inputs.tail } := by
  rcases step_cases s with ⟨hin, hstep⟩ | ⟨rest, hin, hstep⟩ | ⟨w, rest, hin, hstep⟩
  · simp [hstep, hin, State.finish]
  · simp [hstep, hin]
  · simp [hstep, hin]

/-- Settles O24: a step finishes with what `present` gives for the block and the head of the event port. -/
theorem stepIsATotalFunctionOfBlockAndInput : Obligations.StepIsATotalFunctionOfBlockAndInput := fun s =>
  ⟨_, step_eq_finish_present s, rfl, rfl⟩

/-! ### `val` (R10, 42_parity_validator.md R128 a) -/

@[simp] theorem val_nil : val [] = 0 := rfl

@[simp] theorem val_cons (b : Bool) (bs : List Bool) : val (b :: bs) = b.toNat * 2 ^ bs.length + val bs := rfl

theorem val_lt_two_pow_length (L : List Bool) : val L < 2 ^ L.length := by
  induction L with
  | nil => simp
  | cons b bs ih =>
    have hb : b.toNat * 2 ^ bs.length ≤ 1 * 2 ^ bs.length := Nat.mul_le_mul_right _ b.toNat_le
    rw [val_cons, List.length_cons, Nat.pow_succ]
    omega

/-- The leading bit is the quotient of the value by its weight: the bits after it stay below that weight. -/
theorem val_cons_div (b : Bool) (bs : List Bool) : val (b :: bs) / 2 ^ bs.length = b.toNat := by
  rw [val_cons, mul_comm, Nat.mul_add_div (Nat.two_pow_pos _), Nat.div_eq_of_lt (val_lt_two_pow_length bs), add_zero]

theorem val_injective_of_length_eq {L M : List Bool} (hlen : L.length = M.length) (hval : val L = val M) :
    L = M := by
  induction L generalizing M with
  | nil => exact (List.length_eq_zero_iff.mp hlen.symm).symm
  | cons b bs ih =>
    cases M with
    | nil => cases hlen
    | cons c cs =>
      have hlen' : bs.length = cs.length := Nat.succ.inj hlen
      have hbit : b = c := by
        have hdigit : b.toNat = c.toNat := by rw [← val_cons_div b bs, ← val_cons_div c cs, hval, hlen']
        rw [← Bool.ofNat_toNat b, hdigit, Bool.ofNat_toNat]
      subst hbit
      rw [ih hlen' (by simpa [hlen'] using hval)]

/-- R10: bit `j` of `k` weighs `2 ^ (k - 1 - j)`. -/
theorem val_eq_sum (L : List Bool) :
    val L = ∑ j ∈ Finset.range L.length, (L.getD j false).toNat * 2 ^ (L.length - 1 - j) := by
  induction L with
  | nil => rfl
  | cons b bs ih =>
    rw [val_cons, ih, List.length_cons, Finset.sum_range_succ', add_comm]
    congr 1
    refine Finset.sum_congr rfl fun j _ => ?_
    rw [List.getD_cons_succ, show bs.length + 1 - 1 - (j + 1) = bs.length - 1 - j by omega]

/-- Settles O46, by induction on the list: each bit is a digit above the value of the bits after it. -/
theorem valIsExactOnLists : Obligations.ValIsExactOnLists :=
  ⟨val_lt_two_pow_length, fun _ _ => val_injective_of_length_eq, val_eq_sum⟩

end Sys2Proof.Machine
end

section
/-! PROOFS. What one event or one step does to the block (10_state.md): the moves of the block, the invariants V1 to
V7 (R27), the phases (R29), the access table (R36), and the cells held (R23). -/

namespace Sys2Proof.Machine

/-! ### The two edge events -/

theorem edgeEvent_eq_d0_or_d1 (bit : Bool) : edgeEvent bit = .d0 ∨ edgeEvent bit = .d1 := by
  cases bit <;> simp [edgeEvent]

@[simp] theorem edgeEvent_ne_tick (bit : Bool) : edgeEvent bit ≠ .tick := by cases bit <;> nofun
@[simp] theorem edgeEvent_ne_stop (bit : Bool) : edgeEvent bit ≠ .stop := by cases bit <;> nofun
@[simp] theorem edgeEvent_ne_begin (bit : Bool) (arg : Ticks) : edgeEvent bit ≠ .begin arg := by cases bit <;> nofun

/-- While Listening an edge is `Edge(bit)`, with no result (R91, R92). -/
theorem Block.react_edgeEvent {b : Block} (hlst : b.lst = .listening) (bit : Bool) :
    b.react (edgeEvent bit) = (b.edge bit, .none) := by
  cases bit <;> simp [react, edgeEvent, hlst]

/-- While Idle an edge is ignored silently (R91, R92). -/
theorem Block.react_edgeEvent_of_idle {b : Block} (hlst : b.lst = .idle) (bit : Bool) :
    b.react (edgeEvent bit) = (b, .none) := by
  cases bit <;> simp [react, edgeEvent, hlst]

/-! ### The moves of the block under one event -/

/-- The access table of R36 as a relation: how an event moves the block, and when it leaves it as it is. -/
inductive Block.Move (b : Block) : Instr → Block → Prop
  | edge (bit : Bool) (hlst : b.lst = .listening) : Move b (edgeEvent bit) (b.edge bit)
  | countDown (hlst : b.lst = .listening) (harmed : b.armed = true) (htmr : 1 < b.tmr.toNat) :
      Move b .tick { b with tmr := b.tmr - 1 }
  | timeout (hlst : b.lst = .listening) (harmed : b.armed = true) (htmr : b.tmr.toNat ≤ 1) : Move b .tick b.clear
  | begin (arg : Ticks) (hlst : b.lst = .idle) :
      Move b (.begin arg) { b with qp := quietPeriod arg, lst := .listening }
  | stop (hlst : b.lst = .listening) : Move b .stop { b.clear with lst := .idle }
  | keep (i : Instr) (hidle : b.lst = .idle → ∀ arg, i ≠ .begin arg)
      (hlistening : b.lst = .listening → i ≠ .d0 ∧ i ≠ .d1 ∧ i ≠ .stop ∧ (i = .tick → b.armed = false)) : Move b i b

theorem Block.move_react_edgeEvent (b : Block) (bit : Bool) : b.Move (edgeEvent bit) (b.react (edgeEvent bit)).1 := by
  cases hlst : b.lst with
  | idle =>
    rw [react_edgeEvent_of_idle hlst]
    exact .keep _ (by simp) (by simp [hlst])
  | listening =>
    rw [react_edgeEvent hlst]
    exact .edge bit hlst

/-- Every event makes one of the moves. -/
theorem Block.move_react (b : Block) (i : Instr) : b.Move i (b.react i).1 := by
  cases i with
  | d0 => exact b.move_react_edgeEvent false
  | d1 => exact b.move_react_edgeEvent true
  | tick =>
    by_cases harmed : b.lst = .listening ∧ b.armed = true
    · by_cases htmr : 1 < b.tmr.toNat
      · simpa [react, harmed, htmr] using Move.countDown harmed.1 harmed.2 htmr
      · simpa [react, harmed, htmr] using Move.timeout harmed.1 harmed.2 (Nat.le_of_not_lt htmr)
    · simpa [react, harmed] using Move.keep .tick (by simp) (fun hlst => by simpa [hlst] using harmed)
  | begin arg =>
    cases h : b.lst with
    | idle => simpa [react, h] using Move.begin arg h
    | listening => simpa [react, h] using Move.keep (.begin arg) (by simp [h]) (by simp)
  | stop =>
    cases h : b.lst with
    | idle => simpa [react, h] using Move.keep .stop (by simp) (by simp [h])
    | listening => simpa [react, h] using Move.stop h
  | _ => exact Move.keep _ (by simp) (by simp)

/-- An event completes, leaves the inputs alone (log entry 1), and moves the block. -/
theorem exec_move (i : Instr) (s : State) :
    ∃ t : State, exec i s = .next t ∧ t.inputs = s.inputs ∧ s.block.Move i t.block :=
  ⟨_, exec_react i s, rfl, s.block.move_react i⟩

/-- An input resets the block or moves it. -/
theorem Block.present_cases (b : Block) (i : Input) :
    (b.present i).1 = Block.reset ∨ ∃ e : Instr, b.Move e (b.present i).1 := by
  cases i with
  | reset => exact .inl rfl
  | event w => exact .inr ⟨decode w, by simpa using b.move_react (decode w)⟩

/-! ### What an edge and a clear leave in the buffer -/

theorem Block.append_cell_of_ne (b : Block) (bit : Bool) {j : Nat} (hj : j ≠ b.cnt.toNat) :
    (b.append bit).cell j = b.cell j := by
  by_cases hroom : b.cnt.toNat < 34
  · rw [(b.append_room bit hroom).2, if_neg hj]
  · rw [b.append_full bit (by omega)]

theorem Block.cnt_le_append_cnt (b : Block) (bit : Bool) : b.cnt.toNat ≤ (b.append bit).cnt.toNat := by
  by_cases hroom : b.cnt.toNat < 34
  · have := (b.append_room bit hroom).1
    omega
  · rw [b.append_full bit (by omega)]

theorem Block.one_le_append_cnt (b : Block) (bit : Bool) : 1 ≤ (b.append bit).cnt.toNat := by
  by_cases hroom : b.cnt.toNat < 34
  · have := (b.append_room bit hroom).1
    omega
  · rw [b.append_full bit (by omega)]
    omega

/-- A write to elements other than the buffer leaves the cells alone. -/
@[simp] theorem Block.cell_of_same_buf (b : Block) (lst : Lifecycle) (qp : Ticks) (cnt : Count) (armed : Bool) (tmr : Ticks)
    (j : Nat) : Block.cell { lst, qp, buf := b.buf, cnt, armed, tmr } j = b.cell j := rfl

@[simp] theorem Block.edge_cell (b : Block) (bit : Bool) (j : Nat) : (b.edge bit).cell j = (b.append bit).cell j := rfl

/-- What Clear() of R54 leaves: every cell, CNT, ARMED and TMR are 0. -/
def Block.Cleared (b : Block) : Prop := (∀ j, b.cell j = false) ∧ b.cnt = 0 ∧ b.armed = false ∧ b.tmr = 0

theorem Block.clear_cleared (b : Block) : b.clear.Cleared := ⟨b.clear_cell, rfl, rfl, rfl⟩

/-- LST and QP are no part of what a clear writes. -/
theorem Block.Cleared.with_lst_qp {b : Block} (h : b.Cleared) (lst : Lifecycle) (qp : Ticks) :
    { b with lst := lst, qp := qp }.Cleared := h

theorem Block.reset_cleared : Block.reset.Cleared :=
  Block.reset.clear_cleared

/-! ### The invariants V1 to V7 (R27) -/

theorem one_le_quietPeriod (arg : Ticks) : 1 ≤ (quietPeriod arg).toNat := by
  unfold quietPeriod
  split
  · decide
  · bv_omega

/-- A cleared block satisfies the invariants in both lifecycle states, whatever its quiet period above 0. -/
theorem Block.Cleared.inv {b : Block} (h : b.Cleared) (hqp : 1 ≤ b.qp.toNat) : b.Inv := by
  obtain ⟨hcell, hcnt, harmed, htmr⟩ := h
  exact {
    v1 := fun _ => ⟨hcnt, harmed, htmr, fun i _ => hcell i⟩
    v2 := by simp [harmed, hcnt]
    v3 := by simp [harmed]
    v4 := fun _ => htmr
    v5 := fun i _ _ => hcell i
    v6 := ⟨hqp, Nat.le_of_lt_succ b.qp.isLt⟩
    v7 := by simp [hcnt] }

/-- V1 says that an Idle block is cleared: past the 34 cells it speaks of there are none. -/
theorem Block.Inv.cleared_of_idle {b : Block} (h : b.Inv) (hlst : b.lst = .idle) : b.Cleared := by
  obtain ⟨hcnt, harmed, htmr, hcell⟩ := h.v1 hlst
  refine ⟨fun j => ?_, hcnt, harmed, htmr⟩
  by_cases hj : j < 34
  · exact hcell j hj
  · exact b.cell_of_ge (by omega)

/-- An edge leaves the timer armed with the full quiet period and one bit held at least; the buffer keeps its
canonical form. -/
theorem Block.Inv.edge {b : Block} (h : b.Inv) (hlst : b.lst = .listening) (bit : Bool) : (b.edge bit).Inv := by
  obtain ⟨hcnt, hcell⟩ := b.append_bufferWf bit ⟨h.v7, h.v5⟩
  exact {
    v1 := by simp [hlst]
    v2 := by simpa using b.one_le_append_cnt bit
    v3 := fun _ => by simpa using h.v6.1
    v4 := by simp
    v5 := hcell
    v6 := by simpa using h.v6
    v7 := hcnt }

theorem Block.Inv.countDown {b : Block} (h : b.Inv) (hlst : b.lst = .listening) (harmed : b.armed = true)
    (htmr : 1 < b.tmr.toNat) : { b with tmr := b.tmr - 1 }.Inv := by
  have hle := (h.v3 harmed).2
  have hsub : (b.tmr - 1).toNat = b.tmr.toNat - 1 := by bv_omega
  exact {
    v1 := by simp [hlst]
    v2 := h.v2
    v3 := fun _ => ⟨by simp only [hsub]; omega, by simp only [hsub]; omega⟩
    v4 := by simp [harmed]
    v5 := h.v5
    v6 := h.v6
    v7 := h.v7 }

theorem Block.Inv.move {b c : Block} {i : Instr} (h : b.Inv) (hmove : b.Move i c) : c.Inv := by
  cases hmove with
  | edge bit hlst => exact h.edge hlst bit
  | countDown hlst harmed htmr => exact h.countDown hlst harmed htmr
  | timeout => exact b.clear_cleared.inv h.v6.1
  | begin arg hlst => exact ((h.cleared_of_idle hlst).with_lst_qp _ _).inv (one_le_quietPeriod arg)
  | stop => exact (b.clear_cleared.with_lst_qp _ _).inv h.v6.1
  | keep => exact h

theorem Block.reset_inv : Block.reset.Inv := Block.reset_cleared.inv (by decide)

theorem Block.Inv.present {b : Block} (h : b.Inv) (i : Input) : (b.present i).1.Inv := by
  rcases b.present_cases i with hreset | ⟨e, hmove⟩
  · rw [hreset]
    exact Block.reset_inv
  · exact h.move hmove

/-- Settles O27: reset leads to a block with the invariants, and every move of the block keeps them. -/
theorem everyStepKeepsTheInvariants : Obligations.EveryStepKeepsTheInvariants := by
  intro s t h hstep
  cases (step_eq_finish_present s).symm.trans hstep
  exact h.present _

/-- Settles O26: reset leaves everything cleared and the quiet period at 25. -/
theorem resetStateSatisfiesTheInvariants : Obligations.ResetStateSatisfiesTheInvariants := Block.reset_inv

/-! ### The phases of the Frame Assembler (R29) -/

theorem Block.phase_eq_idle_iff (b : Block) : b.phase = .idle ↔ b.lst = .idle := by
  unfold phase; split <;> simp [*]

theorem Block.phase_eq_empty_iff (b : Block) : b.phase = .empty ↔ b.lst = .listening ∧ b.armed = false := by
  unfold phase; split <;> simp [*]

theorem Block.phase_eq_accum_iff (b : Block) : b.phase = .accum ↔ b.lst = .listening ∧ b.armed = true := by
  unfold phase; split <;> simp [*]

/-- From IDLE only BEGIN leads out, to EMPTY, since V1 has the timer of an Idle block not armed. -/
theorem Block.Move.phase_of_idle {b c : Block} {i : Instr} (hmove : b.Move i c) (h : b.Inv) (hphase : b.phase = .idle) :
    (∀ a, i = .begin a → c.phase = .empty) ∧ ((∀ a, i ≠ .begin a) → c.phase = .idle) := by
  have hlst := b.phase_eq_idle_iff.mp hphase
  cases hmove with
  | begin arg =>
    have harmed := (h.v1 hlst).2.1
    exact ⟨fun _ _ => (phase_eq_empty_iff _).mpr ⟨rfl, harmed⟩, fun hno => absurd rfl (hno arg)⟩
  | keep i hidle => exact ⟨fun a hi => absurd hi (hidle hlst a), fun _ => hphase⟩
  | edge bit hlistening | countDown hlistening | timeout hlistening | stop hlistening => simp [hlst] at hlistening

/-- From EMPTY an edge leads to ACCUM and STOP to IDLE. -/
theorem Block.Move.phase_of_empty {b c : Block} {i : Instr} (hmove : b.Move i c) (hphase : b.phase = .empty) :
    c.phase = if i = .d0 ∨ i = .d1 then .accum else if i = .stop then .idle else .empty := by
  obtain ⟨hlst, hunarmed⟩ := b.phase_eq_empty_iff.mp hphase
  cases hmove with
  | edge bit =>
    rw [if_pos (edgeEvent_eq_d0_or_d1 bit), phase_eq_accum_iff]
    simp [hlst]
  | stop => rfl
  | keep i _ hlistening =>
    obtain ⟨hd0, hd1, hstop, -⟩ := hlistening hlst
    simpa [hd0, hd1, hstop] using hphase
  | begin arg hidle => simp [hlst] at hidle
  | countDown _ harmed | timeout _ harmed => simp [hunarmed] at harmed

/-- From ACCUM the TICK that finds TMR = 1 leads to EMPTY and STOP to IDLE; V3 excludes TMR = 0. -/
theorem Block.Move.phase_of_accum {b c : Block} {i : Instr} (hmove : b.Move i c) (h : b.Inv)
    (hphase : b.phase = .accum) :
    c.phase = if i = .stop then .idle else if i = .tick ∧ b.tmr = 1 then .empty else .accum := by
  obtain ⟨hlst, harmed⟩ := b.phase_eq_accum_iff.mp hphase
  cases hmove with
  | edge bit =>
    rw [if_neg (by simp), if_neg (by simp), phase_eq_accum_iff]
    simp [hlst]
  | countDown _ _ htmr =>
    have hne : b.tmr ≠ 1 := by bv_omega
    rw [if_neg (by simp), if_neg (fun hone => hne hone.2)]
    exact (phase_eq_accum_iff _).mpr ⟨hlst, harmed⟩
  | timeout _ _ htmr =>
    have hpos := (h.v3 harmed).1
    have hone : b.tmr = 1 := by bv_omega
    simp [hone, phase_eq_empty_iff, hlst]
  | stop => rfl
  | keep i _ hlistening =>
    obtain ⟨-, -, hstop, htick⟩ := hlistening hlst
    have hno : i ≠ .tick := fun hi => by simpa [harmed] using htick hi
    simpa [hstop, hno] using hphase
  | begin arg hidle => simp [hlst] at hidle

/-- Settles O28, phase by phase; reset leaves LST Idle. -/
theorem assemblerPhaseTransitions : Obligations.AssemblerPhaseTransitions := by
  refine ⟨fun i s h => ?_, fun s rest hin => ?_⟩
  · obtain ⟨t, hexec, -, hmove⟩ := exec_move i s
    exact ⟨t, hexec, hmove.phase_of_idle h, hmove.phase_of_empty, hmove.phase_of_accum h⟩
  · refine ⟨_, step_eq_finish_present s, ?_⟩
    simp [hin, Block.phase_eq_idle_iff, Block.reset]

/-! ### The access table (R36) -/

/-- Settles O29, move by move: every clause is about an element the move does not write, or about what it writes. -/
theorem eventsWriteOnlyWhatTheAccessTableLists : Obligations.EventsWriteOnlyWhatTheAccessTableLists := by
  intro i s
  obtain ⟨t, hexec, hin, hmove⟩ := exec_move i s
  refine ⟨t, hexec, hin, ?_⟩
  generalize t.block = c at hmove
  cases hmove with
  | edge bit hlst =>
    have hcode := edgeEvent_eq_d0_or_d1 bit
    refine ⟨by simp, by simp, fun j hwritten => ⟨hlst, .inl ⟨hcode, ?_⟩⟩, fun _ => ⟨hlst, hcode.imp_right .inl⟩,
      fun _ => ⟨hlst, .inl ⟨hcode, rfl⟩⟩, fun _ => ⟨hlst, hcode.imp_right .inl⟩⟩
    by_contra hne
    exact hwritten (s.block.append_cell_of_ne bit hne)
  | countDown hlst harmed => simp [hlst, harmed]
  | timeout hlst harmed htmr => simp [hlst, harmed, htmr]
  | begin arg hlst => simp [hlst]
  | stop hlst =>
    exact ⟨fun _ => .inr ⟨rfl, hlst⟩, by simp, fun j _ => ⟨hlst, .inr ⟨.inr rfl, s.block.clear_cell j⟩⟩,
      fun _ => ⟨hlst, .inr (.inr ⟨.inr rfl, rfl⟩)⟩, fun _ => ⟨hlst, .inr ⟨.inr rfl, rfl⟩⟩, fun _ => ⟨hlst, by simp⟩⟩
  | keep => simp

/-! ### The cells held (R23) -/

/-- Before the next clear a move keeps the cells held and drops none. -/
theorem Block.Move.keeps_held_or_cleared {b c : Block} {i : Instr} (hmove : b.Move i c) :
    ((∀ j < b.cnt.toNat, c.cell j = b.cell j) ∧ b.cnt.toNat ≤ c.cnt.toNat) ∨ c.Cleared := by
  cases hmove with
  | edge bit => exact .inl ⟨fun j hj => b.append_cell_of_ne bit (Nat.ne_of_lt hj), b.cnt_le_append_cnt bit⟩
  | timeout => exact .inr b.clear_cleared
  | stop => exact .inr (b.clear_cleared.with_lst_qp _ _)
  | countDown | begin | keep => exact .inl ⟨fun _ _ => rfl, le_rfl⟩

/-- Settles O32: a reset clears, and a move keeps the cells held or clears. -/
theorem heldCellsAreNotChangedUntilTheNextClear : Obligations.HeldCellsAreNotChangedUntilTheNextClear := by
  intro s
  refine ⟨_, step_eq_finish_present s, ?_⟩
  rcases s.block.present_cases (s.inputs.headD (.event idleWord)) with hreset | ⟨i, hmove⟩
  · exact .inr (hreset ▸ Block.reset_cleared)
  · exact hmove.keeps_held_or_cleared

/-! ### A run of edges (R23, R24, 40_frame_assembler.md R93 c) -/

@[simp] theorem decode_encode (i : Instr) : decode (encode i) = i := by
  apply Instr.ext_fields
  · simp [decode_op, encode]
  · rw [decode_arg, encode, opField_append, argField_append]
    cases i <;> simp [Instr.op, Instr.arg]

theorem bitsInputs_cons (bit : Bool) (L : List Bool) :
    bitsInputs (bit :: L) = .event (encode (edgeEvent bit)) :: bitsInputs L := rfl

theorem Block.after_bitsInputs_cons {b : Block} (hlst : b.lst = .listening) (bit : Bool) (L : List Bool) :
    b.after (bitsInputs (bit :: L)) = (b.edge bit).after (bitsInputs L) := by
  rw [bitsInputs_cons, Block.after, present_event, decode_encode, react_edgeEvent hlst]

/-- No edge yields a result, however many come. -/
theorem Block.results_bitsInputs {b : Block} (hlst : b.lst = .listening) (L : List Bool) :
    b.results (bitsInputs L) = List.replicate L.length .none := by
  induction L generalizing b with
  | nil => rfl
  | cons bit L ih =>
    rw [bitsInputs_cons, Block.results, present_event, decode_encode, react_edgeEvent hlst, ih (by simpa using hlst)]
    rfl

/-- The buffer holds the first 34 bits of `M` in arrival order (R23, R24). -/
def Block.HoldsFirst (b : Block) (M : List Bool) : Prop :=
  b.cnt.toNat = min M.length 34 ∧ ∀ j < min M.length 34, M[j]? = some (b.cell j)

/-- With room the bit goes behind the bits held; with none it is a bit past the first 34. -/
theorem Block.HoldsFirst.edge {b : Block} {M : List Bool} (h : b.HoldsFirst M) (bit : Bool) :
    (b.edge bit).HoldsFirst (M ++ [bit]) := by
  obtain ⟨hcnt, hcell⟩ := h
  unfold HoldsFirst
  rw [edge_cnt, List.length_append, List.length_singleton]
  by_cases hroom : b.cnt.toNat < 34
  · obtain ⟨hcnt', hcell'⟩ := b.append_room bit hroom
    have hlen : b.cnt.toNat = M.length := by omega
    refine ⟨by omega, fun j hj => ?_⟩
    rw [edge_cell, hcell', hlen]
    split
    case isTrue heq => simp [heq]
    case isFalse hne => rw [List.getElem?_append_left (by omega), hcell j (by omega)]
  · rw [b.append_full bit (by omega)]
    refine ⟨by omega, fun j hj => ?_⟩
    rw [edge_cell, b.append_full bit (by omega), List.getElem?_append_left (by omega), hcell j (by omega)]

theorem Block.HoldsFirst.after_bitsInputs {b : Block} {M : List Bool} (h : b.HoldsFirst M) (hlst : b.lst = .listening)
    (L : List Bool) : (b.after (bitsInputs L)).HoldsFirst (M ++ L) := by
  induction L generalizing b M with
  | nil => rwa [List.append_nil]
  | cons bit L ih =>
    rw [after_bitsInputs_cons hlst, List.append_cons]
    exact ih (h.edge bit) (by simpa using hlst)

/-- Settles O34: a buffer with CNT = 0 holds the first bits of the empty list, and each edge extends the list. -/
theorem edgesStoreTheFirst34BitsInArrivalOrder : Obligations.EdgesStoreTheFirst34BitsInArrivalOrder := by
  intro b L hlst hcnt
  have hempty : b.HoldsFirst [] := ⟨by simp [hcnt], by simp⟩
  obtain ⟨hcnt', hcell⟩ := hempty.after_bitsInputs hlst L
  exact ⟨hcnt', hcell, Block.results_bitsInputs hlst L⟩

end Sys2Proof.Machine
end

section
/-! PROOFS. The frame buffer as memory (20_memory.md): which events read its cells (R53), and what an accepted STOP
leaves to be seen (R60). -/

namespace Sys2Proof.Machine

open Sys2Proof.Claims

/-! ### An Idle block (43_lifecycle.md R136, R139, R140) -/

/-- What an event other than BEGIN yields while Idle: a refusal of STOP and of the reserved codes, else nothing. -/
def idleResult : Instr → Result
  | .stop => .reject .alreadyIdle
  | .nop | .d0 | .d1 | .tick | .begin _ => .none
  | .rsvd6 | .rsvd7 | .rsvd8 | .rsvd9 | .rsvd10 | .rsvd11 | .rsvd12 | .rsvd13 | .rsvd14 | .rsvd15 => .reject .reservedCode

theorem idleResult_not_decoded_or_stopped (i : Instr) : (idleResult i).isDecoded = false ∧ idleResult i ≠ .stopped := by
  cases i <;> simp [idleResult, Result.isDecoded]

theorem Block.react_of_idle {b : Block} (hlst : b.lst = .idle) {i : Instr} (hno : ∀ a, i ≠ .begin a) :
    b.react i = (b, idleResult i) := by
  cases i with
  | begin a => exact absurd rfl (hno a)
  | d0 | d1 | tick | stop => simp [react, idleResult, hlst]
  | _ => rfl

theorem Block.react_begin_of_idle {b : Block} (hlst : b.lst = .idle) (arg : Ticks) :
    b.react (.begin arg) = ({ b with qp := quietPeriod arg, lst := .listening }, .ready) := by
  simp [react, hlst]

theorem eventInputs_cons (i : Instr) (is : List Instr) :
    eventInputs (i :: is) = .event (encode i) :: eventInputs is := rfl

/-- Without a BEGIN a run of events leaves an Idle block as it is and yields the Idle results. -/
theorem Block.run_without_begin_of_idle {b : Block} (hlst : b.lst = .idle) {is : List Instr}
    (hno : ∀ i ∈ is, ∀ a, i ≠ .begin a) :
    b.after (eventInputs is) = b ∧ b.results (eventInputs is) = is.map idleResult := by
  induction is with
  | nil => exact ⟨rfl, rfl⟩
  | cons i is ih =>
    obtain ⟨hi, his⟩ := List.forall_mem_cons.mp hno
    obtain ⟨hafter, hresults⟩ := ih his
    rw [eventInputs_cons, Block.after, Block.results, present_event, decode_encode, react_of_idle hlst hi]
    exact ⟨hafter, congrArg _ hresults⟩

/-- The quiet period of an Idle block cannot be seen: no event reads it before a BEGIN overwrites it. -/
theorem Block.results_with_qp_of_idle {b : Block} (hlst : b.lst = .idle) (qp : Ticks) (is : List Input) :
    { b with qp := qp }.results is = b.results is := by
  induction is with
  | nil => rfl
  | cons i is ih =>
    cases i with
    | reset => rfl
    | event w =>
      rw [Block.results, Block.results, present_event, present_event]
      by_cases hbegin : ∃ arg, decode w = .begin arg
      · obtain ⟨arg, harg⟩ := hbegin
        rw [harg, react_begin_of_idle hlst, react_begin_of_idle (b := { b with qp := qp }) hlst]
      · have hno := not_exists.mp hbegin
        rw [react_of_idle hlst hno, react_of_idle (b := { b with qp := qp }) hlst hno]
        exact congrArg _ ih

/-! ### An event that does not fire the timeout reads no cell (R53) -/

/-- The same block with other cells. -/
def Block.withBuf (b : Block) (other : Vector Bool 34) : Block := { b with buf := other }

@[simp] theorem Block.withBuf_lst (b : Block) (other : Vector Bool 34) : (b.withBuf other).lst = b.lst := rfl
@[simp] theorem Block.withBuf_cnt (b : Block) (other : Vector Bool 34) : (b.withBuf other).cnt = b.cnt := rfl
@[simp] theorem Block.withBuf_armed (b : Block) (other : Vector Bool 34) : (b.withBuf other).armed = b.armed := rfl
@[simp] theorem Block.withBuf_tmr (b : Block) (other : Vector Bool 34) : (b.withBuf other).tmr = b.tmr := rfl

/-- Two outcomes of one event, from a block and from the same block with other cells, that give no reading of a
cell away: they agree off the buffer, and each cell is kept in both or the same in both. -/
def Block.NoCellRead (b : Block) (other : Vector Bool 34) (p q : Block × Result) : Prop :=
  q.2 = p.2 ∧ q.1 = p.1.withBuf q.1.buf ∧
    ∀ j, p.1.cell j = b.cell j ∧ q.1.cell j = other.toList.getD j false ∨ p.1.cell j = q.1.cell j

/-- Writing elements other than the buffer keeps every cell in both. -/
theorem Block.NoCellRead.of_buf_kept {b : Block} {other : Vector Bool 34} {p : Block × Result}
    (hbuf : p.1.buf = b.buf) : b.NoCellRead other p (p.1.withBuf other, p.2) :=
  ⟨rfl, rfl, fun j => .inl ⟨Block.cell_congr hbuf j, rfl⟩⟩

/-- An edge finds its cell and its room by CNT: other cells change only what the buffer holds after it. -/
theorem Block.edge_withBuf (b : Block) (other : Vector Bool 34) (bit : Bool) :
    (b.withBuf other).edge bit = (b.edge bit).withBuf ((b.withBuf other).edge bit).buf := by
  unfold edge append withBuf
  split <;> rfl

/-- An edge writes its bit to cell CNT in both, if there is room, and keeps every other cell. -/
theorem Block.noCellRead_edge (b : Block) (other : Vector Bool 34) (bit : Bool) (r : Result) :
    b.NoCellRead other (b.edge bit, r) ((b.withBuf other).edge bit, r) := by
  refine ⟨rfl, b.edge_withBuf other bit, fun j => ?_⟩
  rw [edge_cell, edge_cell]
  by_cases hj : j = b.cnt.toNat
  · by_cases hroom : b.cnt.toNat < 34
    · right
      rw [(b.append_room bit hroom).2, (append_room (b.withBuf other) bit hroom).2, if_pos hj,
        if_pos (show j = (b.withBuf other).cnt.toNat from hj)]
    · have hfull := Nat.le_of_not_lt hroom
      rw [b.append_full bit hfull, append_full (b.withBuf other) bit hfull]
      exact .inl ⟨rfl, rfl⟩
  · exact .inl ⟨b.append_cell_of_ne bit hj, append_cell_of_ne (b.withBuf other) bit hj⟩

/-- While Idle an event leaves the buffer alone. -/
theorem Block.noCellRead_react_of_idle {b : Block} (hlst : b.lst = .idle) (other : Vector Bool 34) (i : Instr) :
    b.NoCellRead other (b.react i) ((b.withBuf other).react i) := by
  by_cases hbegin : ∃ arg, i = .begin arg
  · obtain ⟨arg, rfl⟩ := hbegin
    rw [react_begin_of_idle hlst, react_begin_of_idle (b := b.withBuf other) hlst]
    exact .of_buf_kept rfl
  · have hno := not_exists.mp hbegin
    rw [react_of_idle hlst hno, react_of_idle (b := b.withBuf other) hlst hno]
    exact .of_buf_kept rfl

/-- A TICK that does not fire counts down or does nothing. -/
theorem Block.noCellRead_react_tick {b : Block} (hquiet : b.armed = true → 1 < b.tmr.toNat)
    (other : Vector Bool 34) : b.NoCellRead other (b.react .tick) ((b.withBuf other).react .tick) := by
  by_cases harmed : b.lst = .listening ∧ b.armed = true
  · simp only [react, withBuf_lst, withBuf_armed, withBuf_tmr, harmed, hquiet harmed.2, and_self, if_true]
    exact .of_buf_kept rfl
  · simp only [react, withBuf_lst, withBuf_armed, harmed, if_false]
    exact .of_buf_kept rfl

/-- While Listening an edge goes by CNT, STOP clears every cell unread, and an event that does not fire the timeout
leaves the buffer alone otherwise. -/
theorem Block.noCellRead_react_of_listening {b : Block} (hlst : b.lst = .listening) (other : Vector Bool 34) {i : Instr}
    (hquiet : i = .tick → b.armed = true → 1 < b.tmr.toNat) :
    b.NoCellRead other (b.react i) ((b.withBuf other).react i) := by
  cases i with
  | d0 | d1 =>
    simp only [react, withBuf_lst, hlst, if_true]
    exact b.noCellRead_edge other _ .none
  | tick => exact noCellRead_react_tick (hquiet rfl) other
  | begin arg =>
    simp only [react, withBuf_lst, hlst, reduceCtorEq, if_false]
    exact .of_buf_kept rfl
  | stop =>
    simp only [react, withBuf_lst, hlst, if_true]
    exact ⟨rfl, rfl, fun _ => .inr rfl⟩
  | _ => exact .of_buf_kept rfl

/-- Settles O30: no event but the firing TICK gives a reading of a cell away, Idle or Listening. -/
theorem onlyTheFiringTickReadsTheBuffer : Obligations.OnlyTheFiringTickReadsTheBuffer := by
  intro i s other hquiet
  have hnoread : s.block.NoCellRead other (s.block.react i) ((s.block.withBuf other).react i) := by
    cases hlst : s.block.lst with
    | idle => exact Block.noCellRead_react_of_idle hlst other i
    | listening =>
      refine Block.noCellRead_react_of_listening hlst other fun hi harmed => ?_
      by_contra hle
      exact hquiet ⟨hi, hlst, harmed, Nat.le_of_not_lt hle⟩
  obtain ⟨hresult, hblock, hcells⟩ := hnoread
  exact ⟨_, _, exec_react i s, exec_react i (withCells s other), congrArg₂ (State.mk · s.inputs ·) hblock hresult, hcells⟩

/-! ### What the timeout reads (R53, 41_frame_classifier.md R111 to R115) -/

theorem Block.firstCells_congr {b c : Block} {n : Nat} (h : ∀ j < n, b.cell j = c.cell j) :
    b.firstCells n = c.firstCells n := by
  apply List.ext_getElem (by simp)
  intro j hb hc
  have hj : j < n := by rw [firstCells_length] at hb; omega
  rw [← List.getD_eq_getElem _ false hb, ← List.getD_eq_getElem _ false hc, firstCells_getD b hj, firstCells_getD c hj]
  exact h j hj

theorem Block.timeoutResult_of_long {b : Block} (h : 34 ≤ b.cnt.toNat) :
    b.timeoutResult = validate .long (b.firstCells 34) := by
  have hfloor : 4 ≤ b.cnt.toNat := by omega
  simp [timeoutResult, floorOk, classify, isLong, hfloor, h]

theorem Block.timeoutResult_of_short {b : Block} (h : 26 ≤ b.cnt.toNat) (hlong : b.cnt.toNat < 34) :
    b.timeoutResult = validate .short (b.firstCells 26) := by
  have hfloor : 4 ≤ b.cnt.toNat := by omega
  simp [timeoutResult, floorOk, classify, isLong, isShort, hfloor, h, hlong, Nat.not_le.mpr hlong]

theorem Block.timeoutResult_of_keypad {b : Block} (h : b.cnt.toNat = 4) :
    b.timeoutResult = .keypad (keypadValue (b.firstCells 4)) := by
  simp [timeoutResult, floorOk, classify, isLong, isShort, isKeypad, h]

/-- A count below 26 other than 4 matches no row, below the floor or above it (R97, R114). -/
theorem Block.timeoutResult_of_dropped {b : Block} (hshort : b.cnt.toNat < 26) (hkeypad : b.cnt.toNat ≠ 4) :
    b.timeoutResult = .none := by
  have hlong : ¬34 ≤ b.cnt.toNat := by omega
  simp [timeoutResult, classify, isLong, isShort, isKeypad, hlong, Nat.not_le.mpr hshort, hkeypad]

/-- The timeout's result is a function of the count and the leading cells the count selects. -/
theorem Block.timeoutResult_congr {b c : Block} (hcnt : c.cnt = b.cnt)
    (hcells : ∀ j < prefixRead b.cnt, b.cell j = c.cell j) : c.timeoutResult = b.timeoutResult := by
  have hprefix := (firstCells_congr hcells).symm
  by_cases hlong : 34 ≤ b.cnt.toNat
  · rw [prefixRead, if_pos hlong] at hprefix
    rw [timeoutResult_of_long (hcnt ▸ hlong), timeoutResult_of_long hlong, hprefix]
  by_cases hshort : 26 ≤ b.cnt.toNat
  · have hlt := Nat.lt_of_not_le hlong
    rw [prefixRead, if_neg hlong, if_pos hshort] at hprefix
    rw [timeoutResult_of_short (hcnt ▸ hshort) (hcnt ▸ hlt), timeoutResult_of_short hshort hlt, hprefix]
  by_cases hkeypad : b.cnt.toNat = 4
  · rw [prefixRead, if_neg hlong, if_neg hshort, if_pos hkeypad] at hprefix
    rw [timeoutResult_of_keypad (hcnt ▸ hkeypad), timeoutResult_of_keypad hkeypad, hprefix]
  · have hlt := Nat.lt_of_not_le hshort
    rw [timeoutResult_of_dropped (hcnt ▸ hlt) (hcnt ▸ hkeypad), timeoutResult_of_dropped hlt hkeypad]

/-- The firing TICK is the timeout of R96: clear, with the result read before. -/
theorem exec_tick_of_firing {s : State} (h : Firing s) :
    exec .tick s = s.finish s.block.clear s.block.timeoutResult := by
  obtain ⟨hlst, harmed, htmr⟩ := h
  simp [exec_react, Block.react, hlst, harmed, htmr]

/-- Settles O31: the clear leaves nothing of the cells, and the result takes only the leading ones. -/
theorem timeoutReadsOnlyTheLeadingCells : Obligations.TimeoutReadsOnlyTheLeadingCells := by
  intro s other hfiring hcells
  have hresult : (withCells s other).block.timeoutResult = s.block.timeoutResult := Block.timeoutResult_congr rfl hcells
  rw [exec_tick_of_firing hfiring, exec_tick_of_firing (s := withCells s other) hfiring, hresult]
  rfl

/-! ### STOP as a barrier (R60) -/

/-- An accepted STOP leaves nothing of the block but its quiet period (43_lifecycle.md R138). -/
theorem Block.present_stop_of_listening {b : Block} (hlst : b.lst = .listening) :
    b.present (.event (encode .stop)) = ({ b.clear with lst := .idle }, .stopped) := by
  simp [react, hlst]

/-- Settles O41: the blocks after STOP are Idle and differ in QP alone. -/
theorem stopIsABarrier : Obligations.StopIsABarrier := by
  intro b c hb hc
  rw [Block.present_stop_of_listening hb, Block.present_stop_of_listening hc]
  refine ⟨fun is => Block.results_with_qp_of_idle (b := { c.clear with lst := .idle }) rfl b.qp is, fun is hno => ?_⟩
  obtain ⟨hafter, hresults⟩ := Block.run_without_begin_of_idle (b := { b.clear with lst := .idle }) rfl hno
  refine ⟨hafter, fun r hr => ?_⟩
  rw [hresults, List.mem_map] at hr
  obtain ⟨i, -, rfl⟩ := hr
  exact idleResult_not_decoded_or_stopped i

end Sys2Proof.Machine
end

section
/-! PROOFS. The encoding (30_encoding.md): words, events and rows of the opcode table (R70 to R73), the words of the
lines of a trace (R82), and the result word (R76 to R78). -/

namespace Sys2Proof

open Machine

/-! ### Words and events -/

/-- Under the mask of the opcode table a word is its `op` alone. -/
theorem and_mask_eq_op (w : EventWord) : w &&& 0xF0000 = opField w ++ (0 : Ticks) := by
  rw [← append_and_mask (opField w) (argField w), word_eq_fields]

theorem encode_decode (w : EventWord) : encode (decode w) = if opField w = 4 then w else w &&& 0xF0000 := by
  rw [encode, decode_op, decode_arg]
  split
  case isTrue => exact word_eq_fields w
  case isFalse => exact (and_mask_eq_op w).symm

theorem decodeNumber_toNat (w : EventWord) : decodeNumber w.toNat = .ok (decode w) := by
  simp [decodeNumber, isEventWord, w.isLt]

/-- The bits of a table row beyond the 20 of an event word are 0, so they do not change the reading. -/
theorem decodeTableWord_toNat {nbits : Nat} (hbits : 20 ≤ nbits) (w : EventWord) :
    decodeTableWord nbits w.toNat = some (decode w) := by
  have hlt : w.toNat < 2 ^ nbits := w.isLt.trans_le (Nat.pow_le_pow_right (by decide) hbits)
  rw [decodeTableWord, Nat.mod_eq_of_lt hlt, decodeNumber_toNat]
  rfl

/-- Settles O1: the three readings of an encoded word are `decode`, and the fields of a decoded event are the word's. -/
theorem decodeAndEncodeAgree : Obligations.DecodeAndEncodeAgree := by
  refine ⟨fun i _ => ⟨decode_encode i, ?_, ?_⟩, encode_decode⟩
  · rw [decodeNumber_toNat, decode_encode]
  · rw [decodeTableWord_toNat (by decide), decode_encode]

theorem decode_eq_iff (w v : EventWord) :
    decode w = decode v ↔ opField w = opField v ∧ (opField w = 4 → argField w = argField v) := by
  constructor
  · intro h
    have hop : opField w = opField v := by rw [← decode_op, ← decode_op, h]
    have harg : (decode w).arg = (decode v).arg := by rw [h]
    rw [decode_arg, decode_arg, ← hop] at harg
    exact ⟨hop, fun h4 => by simpa [h4] using harg⟩
  · rintro ⟨hop, harg⟩
    apply Instr.ext_fields
    · rw [decode_op, decode_op, hop]
    · rw [decode_arg, decode_arg, ← hop]
      split
      case isTrue h4 => exact harg h4
      case isFalse => rfl

theorem decode_of_op_begin {w : EventWord} (h : opField w = 4) : decode w = .begin (argField w) :=
  Instr.ext_fields (by rw [decode_op, h]; rfl) (by rw [decode_arg, if_pos h]; rfl)

/-! ### Rows of the opcode table -/

@[simp] theorem Instr.row_mask (i : Instr) : i.row.mask = 0xF0000 := by cases i <;> rfl

@[simp] theorem Instr.row_pattern (i : Instr) : i.row.pattern = i.op ++ (0 : Ticks) := by
  cases i <;> simp [row, op]

theorem Instr.eq_begin_of_op {i : Instr} (h : i.op = 4) : i = .begin i.arg := ext_fields h rfl

theorem Instr.arg_eq_zero_of_op {i : Instr} (h : i.op ≠ 4) : i.arg = 0 := by
  cases i with
  | begin arg => exact absurd rfl h
  | _ => rfl

/-- The operand of BEGIN is in no row, and an event of another code is that code. -/
theorem Instr.row_eq_iff (i j : Instr) : i.row = j.row ↔ i.op = j.op := by
  constructor
  · intro h
    have hpattern : i.row.pattern = j.row.pattern := by rw [h]
    rwa [row_pattern, row_pattern, BitVec.append_left_inj] at hpattern
  · intro h
    by_cases hbegin : i.op = 4
    · rw [eq_begin_of_op hbegin, eq_begin_of_op (h.symm.trans hbegin)]
      rfl
    · have harg : i.arg = j.arg := by rw [arg_eq_zero_of_op hbegin, arg_eq_zero_of_op (h ▸ hbegin)]
      rw [ext_fields h harg]

theorem Instr.row_accepts_iff (i : Instr) (w : EventWord) : i.row.accepts w = true ↔ i.op = opField w := by
  rw [OpcodeRow.accepts, beq_iff_eq, row_mask, row_pattern, and_mask_eq_op, BitVec.append_left_inj, eq_comm]

/-- Settles O2: a decoded event is its code and its operand, and the operand is the word's for BEGIN only. -/
theorem onlyBeginReadsItsArgument : Obligations.OnlyBeginReadsItsArgument :=
  ⟨decode_eq_iff, fun _ => decode_of_op_begin, Instr.row_mask⟩

/-- Settles O3: matching a row and being that row both say that the codes agree. -/
theorem everyWordMatchesExactlyOneRow : Obligations.EveryWordMatchesExactlyOneRow := by
  intro w i
  rw [Instr.row_accepts_iff, Instr.row_eq_iff, decode_op]

/-- Settles O4, word by word. -/
theorem listedEventWordsDecode : Obligations.ListedEventWordsDecode := by
  unfold Obligations.ListedEventWordsDecode
  decide

end Sys2Proof

namespace Sys2Proof.Machine

/-! ### The lines of a trace -/

@[simp] theorem waitInputs_length (n : Nat) : (waitInputs n).length = n := by
  simp [waitInputs, eventInputs]

/-- Settles O5: the words are closed terms, and `QUIET` is a wait of the quiet period in force. -/
theorem traceLinesHaveTheListedWords : Obligations.TraceLinesHaveTheListedWords := fun q =>
  ⟨rfl, rfl, rfl, rfl, rfl, rfl, rfl, rfl, rfl, rfl, waitInputs_length q.toNat⟩

/-! ### The result word -/

@[simp] theorem Result.kindField_word (r : Result) : kindField r.word = r.kind := BitVec.extractLsb'_append_eq_left

@[simp] theorem Result.valueField_word (r : Result) : valueField r.word = r.value := BitVec.extractLsb'_append_eq_right

/-- The result a consumer reads off the two fields of a result word (R77). -/
def Result.ofFields (kind : BitVec 3) (value : Value) : Result :=
  if kind = 1 then .keypad (value.setWidth 4)
  else if kind = 2 then .reader value
  else if kind = 3 then .ready
  else if kind = 4 then .stopped
  else if kind = 5 then
    .reject (if value = 1 then .alreadyListening else if value = 2 then .alreadyIdle else .reservedCode)
  else .none

@[simp] theorem Result.ofFields_kind_value (r : Result) : ofFields r.kind r.value = r := by
  cases r with
  | reject c => cases c <;> rfl
  | _ => simp [ofFields, kind, value]

/-- The fields of the word determine the result. -/
theorem Result.word_injective : Function.Injective Result.word := by
  intro r q h
  rw [← ofFields_kind_value r, ← ofFields_kind_value q, ← kindField_word, ← valueField_word, h, kindField_word,
    valueField_word]

theorem RejectCause.code_range (c : RejectCause) : 1 ≤ c.code.toNat ∧ c.code.toNat ≤ 3 := by cases c <;> decide

/-- The types of the results carry the ranges of R77 and R78. -/
theorem Result.kind_value_ranges (r : Result) :
    r.kind ≠ 6 ∧ r.kind ≠ 7 ∧ (r.kind = 0 ∨ r.kind = 3 ∨ r.kind = 4 → r.value = 0) ∧
    (r.kind = 1 → r.value.toNat ≤ 15) ∧ (r.kind = 5 → 1 ≤ r.value.toNat ∧ r.value.toNat ≤ 3) := by
  cases r with
  | keypad v =>
    have hv : (v.setWidth 32).toNat ≤ 15 := by
      have hlt : v.toNat < 16 := v.isLt
      rw [BitVec.toNat_setWidth]
      omega
    simpa [kind, value] using hv
  | reject c => simpa [kind, value] using c.code_range
  | none | reader | ready | stopped => simp [kind, value]

/-- Settles O7: the port of any state holds the word of a result, so a step has nothing to add. -/
theorem resultWordsAreWellFormed : Obligations.ResultWordsAreWellFormed := by
  refine ⟨fun _ _ h => Result.word_injective h, fun s t _ => ?_⟩
  simpa [State.resultWord] using t.result.kind_value_ranges

/-- Settles O6, result by result. -/
theorem resultsHaveTheListedWords : Obligations.ResultsHaveTheListedWords := by
  unfold Obligations.ResultsHaveTheListedWords
  decide

end Sys2Proof.Machine
end

section
/-! PROOFS. The Frame Assembler (40_frame_assembler.md): NOP, the edges, TICK and its timeout (R90 to R97), where decoded
values come from (R98), and the quiet period that ends a run of edges (R95). -/

namespace Sys2Proof.Machine

/-! ### NOP and the edges (R90 to R93) -/

/-- Settles O8: the reaction to NOP is the block itself, with no result. -/
theorem nopChangesNothing : Obligations.NopChangesNothing := exec_react .nop

theorem exec_edgeEvent_of_idle {s : State} (hlst : s.block.lst = .idle) (bit : Bool) :
    exec (edgeEvent bit) s = s.finish s.block .none := by
  rw [exec_react, Block.react_edgeEvent_of_idle hlst]

theorem exec_edgeEvent_of_listening {s : State} (hlst : s.block.lst = .listening) (bit : Bool) :
    exec (edgeEvent bit) s = s.finish (s.block.edge bit) .none := by
  rw [exec_react, Block.react_edgeEvent hlst]

/-- Settles O9: D0 and D1 are the edge events of their bits, and `Edge(bit)` differs from `Append(bit)` in the timer. -/
theorem edgesAppendTheirBitAndRestartTheTimer : Obligations.EdgesAppendTheirBitAndRestartTheTimer := by
  intro i bit hi s
  have hedge : i = edgeEvent bit := by rcases hi with ⟨rfl, rfl⟩ | ⟨rfl, rfl⟩ <;> rfl
  subst hedge
  refine ⟨fun hlst => exec_edgeEvent_of_idle hlst bit, fun hlst =>
    ⟨_, exec_edgeEvent_of_listening hlst bit, rfl, rfl, by simpa using hlst, by simp, rfl, rfl, fun hroom => ?_, fun hfull => ?_⟩⟩
  · obtain ⟨hcnt, hcell⟩ := s.block.append_room bit hroom
    exact ⟨hcnt, by simp [hcell], fun j hj => s.block.append_cell_of_ne bit hj⟩
  · simp [s.block.append_full bit hfull]

/-! ### TICK (R94) -/

theorem Block.react_tick_of_no_timer {b : Block} (h : ¬(b.lst = .listening ∧ b.armed = true)) :
    b.react .tick = (b, .none) := by
  rw [react, if_neg h]

theorem Block.react_tick_countDown {b : Block} (hlst : b.lst = .listening) (harmed : b.armed = true)
    (htmr : 1 < b.tmr.toNat) : b.react .tick = ({ b with tmr := b.tmr - 1 }, .none) := by
  rw [react, if_pos ⟨hlst, harmed⟩, if_pos htmr]

theorem Block.react_tick_timeout {b : Block} (hlst : b.lst = .listening) (harmed : b.armed = true)
    (htmr : b.tmr.toNat ≤ 1) : b.react .tick = (b.clear, b.timeoutResult) := by
  rw [react, if_pos ⟨hlst, harmed⟩, if_neg (Nat.not_lt.mpr htmr)]

theorem toNat_sub_one {t : Ticks} (h : 1 < t.toNat) : (t - 1).toNat + 1 = t.toNat := by bv_omega

/-- TMR does not wrap below 0 (R94). -/
theorem Block.react_tick_tmr_le (b : Block) : (b.react .tick).1.tmr.toNat ≤ b.tmr.toNat := by
  by_cases hpending : b.lst = .listening ∧ b.armed = true
  · obtain ⟨hlst, harmed⟩ := hpending
    by_cases htmr : 1 < b.tmr.toNat
    · rw [react_tick_countDown hlst harmed htmr, ← toNat_sub_one htmr]
      exact Nat.le_succ _
    · rw [react_tick_timeout hlst harmed (Nat.le_of_not_lt htmr)]
      exact Nat.zero_le _
  · rw [react_tick_of_no_timer hpending]

/-- Settles O10, by the three reactions to a TICK. -/
theorem tickIgnoresCountsDownOrFires : Obligations.TickIgnoresCountsDownOrFires := by
  intro s
  refine ⟨fun hno => ?_, fun hlst harmed htmr => ?_, exec_tick_of_firing, _, exec_react .tick s, s.block.react_tick_tmr_le⟩
  · rw [exec_react, Block.react_tick_of_no_timer hno]
    rfl
  · refine ⟨_, exec_react .tick s, ?_⟩
    rw [Block.react_tick_countDown hlst harmed htmr]
    exact ⟨rfl, toNat_sub_one htmr⟩

/-! ### The timeout (R96, R97) -/

theorem Block.timeoutResult_eq (b : Block) :
    b.timeoutResult = if 4 ≤ b.cnt.toNat then b.classify else .none := by
  simp [timeoutResult, floorOk]

theorem Block.clear_phase_of_listening {b : Block} (hlst : b.lst = .listening) : b.clear.phase = .empty :=
  b.clear.phase_eq_empty_iff.mpr ⟨hlst, rfl⟩

/-- A cleared Listening block is the block just after reset and BEGIN with the same quiet period: 0 is the one operand
of BEGIN that stands for another. -/
theorem Block.clear_eq_reset_then_begin {b : Block} (hlst : b.lst = .listening) (hqp : b.qp ≠ 0) :
    b.clear = (Block.reset.present (.event (encode (.begin b.qp)))).1 := by
  rw [present_event, decode_encode, react_begin_of_idle rfl, quietPeriod, if_neg hqp, ← hlst]
  rfl

/-- Settles O11: the firing TICK ends with the cleared block and the timeout's result. -/
theorem timeoutClassifiesThenClears : Obligations.TimeoutClassifiesThenClears := by
  intro s hfiring
  have hlst := hfiring.1
  exact ⟨_, exec_tick_of_firing hfiring, rfl, s.block.timeoutResult_eq, hlst, rfl, rfl, rfl, rfl, s.block.clear_cell,
    Block.clear_phase_of_listening hlst, Block.clear_eq_reset_then_begin hlst⟩

/-! ### Events between two edges (R95) -/

/-- What an event of a gap yields while Listening, when no timeout fires: a refusal of BEGIN and of the reserved
codes, else nothing. -/
def gapResult : Instr → Result
  | .begin _ => .reject .alreadyListening
  | .nop | .d0 | .d1 | .tick | .stop => .none
  | .rsvd6 | .rsvd7 | .rsvd8 | .rsvd9 | .rsvd10 | .rsvd11 | .rsvd12 | .rsvd13 | .rsvd14 | .rsvd15 => .reject .reservedCode

theorem gapResult_tick : gapResult .tick = .none := rfl

theorem gapResult_not_decoded (i : Instr) : (gapResult i).isDecoded = false := by cases i <;> rfl

theorem gapResults_not_decoded (is : List Instr) : ∀ r ∈ is.map gapResult, r.isDecoded = false :=
  List.forall_mem_map.mpr fun i _ => gapResult_not_decoded i

/-- While Listening an event of a gap leaves the block as it is, but for a TICK with a timer pending. -/
theorem Block.react_gap {b : Block} (hlst : b.lst = .listening) {i : Instr} (hgap : isGapEvent i = true)
    (hquiet : i = .tick → b.armed = false) : b.react i = (b, gapResult i) := by
  cases i with
  | d0 | d1 | stop => simp [isGapEvent] at hgap
  | tick => exact react_tick_of_no_timer (by simp [hquiet rfl])
  | begin arg => simp [react, gapResult, hlst]
  | _ => rfl

/-! ### Where decoded values come from (R98) -/

theorem Block.react_not_decoded {b : Block} {i : Instr} (hi : i ≠ .tick) : (b.react i).2.isDecoded = false := by
  cases i with
  | tick => exact absurd rfl hi
  | d0 | d1 | begin | stop =>
    rw [react]
    split <;> rfl
  | _ => rfl

/-- Of the reactions to a TICK only the timeout yields a value, and below the floor of 4 bits it does not. -/
theorem Block.react_tick_decoded {b : Block} (h : (b.react .tick).2.isDecoded = true) :
    b.lst = .listening ∧ b.armed = true ∧ b.tmr.toNat ≤ 1 ∧ 4 ≤ b.cnt.toNat ∧ (b.react .tick).1 = b.clear := by
  by_cases hpending : b.lst = .listening ∧ b.armed = true
  · obtain ⟨hlst, harmed⟩ := hpending
    by_cases htmr : 1 < b.tmr.toNat
    · simp [react_tick_countDown hlst harmed htmr, Result.isDecoded] at h
    · have htmr := Nat.le_of_not_lt htmr
      rw [react_tick_timeout hlst harmed htmr] at h ⊢
      have hfloor : 4 ≤ b.cnt.toNat := by
        by_contra hlt
        simp [timeoutResult_eq, hlt, Result.isDecoded] at h
      exact ⟨hlst, harmed, htmr, hfloor, rfl⟩
  · simp [react_tick_of_no_timer hpending, Result.isDecoded] at h

/-- Settles O33: neither an idle event port nor a reset yields a value, and of the events only TICK does. -/
theorem decodedValuesComeOnlyFromTimeouts : Obligations.DecodedValuesComeOnlyFromTimeouts := by
  intro s t hstep hdecoded
  rcases step_cases s with ⟨_, heq⟩ | ⟨_, _, heq⟩ | ⟨w, rest, hin, heq⟩ <;> cases heq.symm.trans hstep
  · simp [Result.isDecoded] at hdecoded
  · simp [Result.isDecoded] at hdecoded
  · have htick : decode w = .tick := by
      by_contra hne
      simp [Block.react_not_decoded hne] at hdecoded
    simp only [htick] at hdecoded ⊢
    exact ⟨⟨w, rest, hin, htick⟩, Block.react_tick_decoded hdecoded⟩

/-! ### What a run of edges holds at its timeout (41_frame_classifier.md R116) -/

theorem Block.HoldsFirst.firstCells {b : Block} {L : List Bool} (h : b.HoldsFirst L) {n : Nat}
    (hn : n ≤ min L.length 34) : b.firstCells n = L.take n := by
  obtain ⟨-, hcell⟩ := h
  apply List.ext_getElem (by simp; omega)
  intro j hb hc
  have hj : j < n := by rw [firstCells_length] at hb; omega
  rw [← List.getD_eq_getElem _ false hb, firstCells_getD b hj, List.getElem_take]
  have hbit := hcell j (by omega)
  rw [List.getElem?_eq_getElem (by omega)] at hbit
  exact (Option.some.inj hbit).symm

theorem runResult_of_long {L : List Bool} (h : 34 ≤ L.length) : runResult L = validate .long (L.take 34) := by
  have hfloor : 4 ≤ L.length := by omega
  simp [runResult, classifyRun, hfloor, h]

theorem runResult_of_short {L : List Bool} (h : 26 ≤ L.length) (hlong : L.length < 34) :
    runResult L = validate .short (L.take 26) := by
  have hfloor : 4 ≤ L.length := by omega
  simp [runResult, classifyRun, hfloor, h, Nat.not_le.mpr hlong]

theorem runResult_of_keypad {L : List Bool} (h : L.length = 4) : runResult L = .keypad (keypadValue L) := by
  simp [runResult, classifyRun, h]

theorem runResult_of_dropped {L : List Bool} (hshort : L.length < 26) (hkeypad : L.length ≠ 4) :
    runResult L = .none := by
  have hlong : ¬34 ≤ L.length := by omega
  simp [runResult, classifyRun, hlong, Nat.not_le.mpr hshort, hkeypad]

/-- The classifier reads at most 34 bits, so what the buffer keeps of a run decides its result. -/
theorem Block.HoldsFirst.timeoutResult {b : Block} {L : List Bool} (h : b.HoldsFirst L) :
    b.timeoutResult = runResult L := by
  have ⟨hcnt, _⟩ := h
  by_cases hlong : 34 ≤ L.length
  · rw [timeoutResult_of_long (by omega), runResult_of_long hlong, h.firstCells (by omega)]
  by_cases hshort : 26 ≤ L.length
  · rw [timeoutResult_of_short (by omega) (by omega), runResult_of_short hshort (by omega), h.firstCells (by omega)]
  by_cases hkeypad : L.length = 4
  · rw [timeoutResult_of_keypad (by omega), runResult_of_keypad hkeypad, h.firstCells (by omega),
      List.take_of_length_le (by omega)]
  · rw [timeoutResult_of_dropped (by omega) (by omega), runResult_of_dropped (by omega) hkeypad]

/-! ### The timer after a run of edges (R93 b) -/

theorem eventInputs_append (is js : List Instr) : eventInputs (is ++ js) = eventInputs is ++ eventInputs js :=
  List.map_append

theorem bitsInputs_append (L M : List Bool) : bitsInputs (L ++ M) = bitsInputs L ++ bitsInputs M := by
  simp [bitsInputs, eventInputs]

/-- LST and QP stay; the last edge leaves the timer armed with the full quiet period. -/
theorem Block.after_bitsInputs_timer {b : Block} (hlst : b.lst = .listening) {L : List Bool} (hL : L ≠ []) :
    (b.after (bitsInputs L)).lst = .listening ∧ (b.after (bitsInputs L)).qp = b.qp ∧
      (b.after (bitsInputs L)).armed = true ∧ (b.after (bitsInputs L)).tmr = b.qp := by
  induction L generalizing b with
  | nil => exact absurd rfl hL
  | cons bit L ih =>
    rw [after_bitsInputs_cons hlst]
    by_cases hnil : L = []
    · subst hnil
      exact ⟨(b.edge_lst bit).trans hlst, b.edge_qp bit, rfl, rfl⟩
    · simpa using ih (b := b.edge bit) (by simpa using hlst) hnil

/-- The first edge of a run overwrites TMR, so the run does not depend on it. -/
theorem Block.after_bitsInputs_with_tmr {b : Block} (hlst : b.lst = .listening) (t : Ticks) {L : List Bool}
    (hL : L ≠ []) : { b with tmr := t }.after (bitsInputs L) = b.after (bitsInputs L) := by
  cases L with
  | nil => exact absurd rfl hL
  | cons bit L =>
    have hedge : { b with tmr := t }.edge bit = b.edge bit := by
      unfold edge append
      split <;> rfl
    rw [after_bitsInputs_cons hlst, after_bitsInputs_cons (b := { b with tmr := t }) hlst, hedge]

theorem replicate_none_not_decoded (n : Nat) : ∀ r ∈ List.replicate n Result.none, r.isDecoded = false := by
  intro r hr
  rw [List.eq_of_mem_replicate hr]
  rfl

theorem Block.results_bitsInputs_not_decoded {b : Block} (hlst : b.lst = .listening) (L : List Bool) :
    ∀ r ∈ b.results (bitsInputs L), r.isDecoded = false := by
  rw [results_bitsInputs hlst]
  exact replicate_none_not_decoded _

/-! ### A gap with and without a timer pending (R95) -/

@[simp] theorem tickCount_nil : tickCount [] = 0 := rfl

theorem tickCount_cons_tick (is : List Instr) : tickCount (.tick :: is) = tickCount is + 1 := List.count_cons_self

theorem tickCount_cons_of_ne {i : Instr} (hi : i ≠ .tick) (is : List Instr) : tickCount (i :: is) = tickCount is :=
  List.count_cons_of_ne hi

theorem Block.run_gap_of_unarmed {b : Block} (hlst : b.lst = .listening) (harmed : b.armed = false) {gap : List Instr}
    (hgap : ∀ i ∈ gap, isGapEvent i = true) :
    b.after (eventInputs gap) = b ∧ b.results (eventInputs gap) = gap.map gapResult := by
  induction gap with
  | nil => exact ⟨rfl, rfl⟩
  | cons i gap ih =>
    obtain ⟨hi, hrest⟩ := List.forall_mem_cons.mp hgap
    obtain ⟨hafter, hresults⟩ := ih hrest
    rw [eventInputs_cons, Block.after, Block.results, present_event, decode_encode, react_gap hlst hi fun _ => harmed]
    exact ⟨hafter, congrArg _ hresults⟩

/-- With fewer ticks than TMR holds, a gap lowers TMR by its ticks and does nothing else. -/
theorem Block.run_gap_below_tmr {b : Block} (hlst : b.lst = .listening) (harmed : b.armed = true) {gap : List Instr}
    (hgap : ∀ i ∈ gap, isGapEvent i = true) (hticks : tickCount gap < b.tmr.toNat) :
    (∃ t : Ticks, t.toNat + tickCount gap = b.tmr.toNat ∧ b.after (eventInputs gap) = { b with tmr := t }) ∧
      b.results (eventInputs gap) = gap.map gapResult := by
  induction gap generalizing b with
  | nil => exact ⟨⟨b.tmr, rfl, rfl⟩, rfl⟩
  | cons i gap ih =>
    obtain ⟨hi, hrest⟩ := List.forall_mem_cons.mp hgap
    rw [eventInputs_cons, Block.after, Block.results, present_event, decode_encode]
    by_cases htick : i = .tick
    · subst htick
      rw [tickCount_cons_tick] at hticks ⊢
      have htmr : 1 < b.tmr.toNat := by omega
      have hsub := toNat_sub_one htmr
      rw [react_tick_countDown hlst harmed htmr]
      obtain ⟨⟨t, ht, hafter⟩, hresults⟩ := ih (b := { b with tmr := b.tmr - 1 }) hlst harmed hrest (by simp only; omega)
      exact ⟨⟨t, by simp only at ht; omega, hafter⟩, congrArg _ hresults⟩
    · rw [tickCount_cons_of_ne htick] at hticks ⊢
      rw [react_gap hlst hi fun hi => absurd hi htick]
      obtain ⟨hafter, hresults⟩ := ih hlst harmed hrest hticks
      exact ⟨hafter, congrArg _ hresults⟩

/-- The `n`-th tick of a sequence of events. -/
theorem exists_split_at_tick {gap : List Instr} {n : Nat} (hpos : 1 ≤ n) (hn : n ≤ tickCount gap) :
    ∃ before later : List Instr, gap = before ++ .tick :: later ∧ tickCount before + 1 = n := by
  induction gap generalizing n with
  | nil => simp at hn; omega
  | cons i gap ih =>
    by_cases htick : i = .tick
    · subst htick
      by_cases hone : n = 1
      · exact ⟨[], gap, rfl, hone.symm⟩
      · rw [tickCount_cons_tick] at hn
        obtain ⟨before, later, rfl, hcount⟩ := ih (n := n - 1) (by omega) (by omega)
        exact ⟨.tick :: before, later, rfl, by rw [tickCount_cons_tick]; omega⟩
    · rw [tickCount_cons_of_ne htick] at hn
      obtain ⟨before, later, rfl, hcount⟩ := ih hpos hn
      exact ⟨i :: before, later, rfl, by rwa [tickCount_cons_of_ne htick]⟩

/-! ### A run of edges from EMPTY, and its timeout (R95, R96) -/

/-- Clear() keeps LST and QP alone. -/
theorem Block.clear_congr {b c : Block} (hlst : b.lst = c.lst) (hqp : b.qp = c.qp) : b.clear = c.clear := by
  simp [clear, hlst, hqp]

theorem Block.Cleared.clear_eq {b : Block} (h : b.Cleared) : b.clear = b := by
  obtain ⟨hcell, hcnt, harmed, htmr⟩ := h
  have hbuf : b.clear.buf = b.buf := buf_ext fun j _ => by rw [clear_cell, hcell]
  rw [clear_buf] at hbuf
  cases b
  simp only [clear, Block.mk.injEq, true_and]
  exact ⟨hbuf, hcnt.symm, harmed.symm, htmr.symm⟩

/-- In phase EMPTY the invariants leave nothing held. -/
theorem Block.Inv.cleared_of_unarmed {b : Block} (h : b.Inv) (harmed : b.armed = false) : b.Cleared := by
  have hcnt : b.cnt.toNat = 0 := by
    by_contra hne
    have hheld := h.v2.mpr (Nat.one_le_iff_ne_zero.mpr hne)
    simp [harmed] at hheld
  refine ⟨fun j => ?_, BitVec.eq_of_toNat_eq hcnt, harmed, h.v4 harmed⟩
  by_cases hj : j < 34
  · exact h.v5 j hj (by omega)
  · exact b.cell_of_ge (by omega)

/-- With fewer than QP ticks after its last edge a run is still held, and only TMR has moved. -/
theorem Block.run_within_quiet_period {b : Block} (hlst : b.lst = .listening) {L : List Bool} (hL : L ≠ [])
    {gap : List Instr} (hgap : ∀ i ∈ gap, isGapEvent i = true) (hticks : tickCount gap < b.qp.toNat) :
    (∃ t : Ticks, t.toNat + tickCount gap = b.qp.toNat ∧
      b.after (bitsInputs L ++ eventInputs gap) = { b.after (bitsInputs L) with tmr := t }) ∧
    b.results (bitsInputs L ++ eventInputs gap) = List.replicate L.length .none ++ gap.map gapResult := by
  obtain ⟨hlst', -, harmed, htmr⟩ := after_bitsInputs_timer hlst hL
  obtain ⟨hafter, hresults⟩ := run_gap_below_tmr hlst' harmed hgap (htmr ▸ hticks)
  rw [after_append, results_append, results_bitsInputs hlst, hresults, ← htmr]
  exact ⟨hafter, rfl⟩

/-- The QP-th tick after the last edge of a run from EMPTY yields the run's result and leads back. -/
theorem Block.present_last_tick {b : Block} (h : b.Inv) (hphase : b.phase = .empty) {L : List Bool} (hL : L ≠ [])
    {gap : List Instr} (hgap : ∀ i ∈ gap, isGapEvent i = true) (hticks : tickCount gap + 1 = b.qp.toNat) :
    (b.after (bitsInputs L ++ eventInputs gap)).present (.event (encode .tick)) = (b, runResult L) := by
  obtain ⟨hlst, hunarmed⟩ := b.phase_eq_empty_iff.mp hphase
  have hcleared := h.cleared_of_unarmed hunarmed
  have ⟨_, hcnt, _⟩ := hcleared
  obtain ⟨hlst', hqp', harmed', -⟩ := after_bitsInputs_timer hlst hL
  obtain ⟨⟨t, ht, hafter⟩, -⟩ := run_within_quiet_period hlst hL hgap (by omega)
  have hholds : (b.after (bitsInputs L)).HoldsFirst L :=
    HoldsFirst.after_bitsInputs (M := []) ⟨by simp [hcnt], by simp⟩ hlst L
  have hresult : { b.after (bitsInputs L) with tmr := t }.timeoutResult = runResult L :=
    HoldsFirst.timeoutResult hholds
  have hclear : { b.after (bitsInputs L) with tmr := t }.clear = b :=
    (clear_congr (hlst'.trans hlst.symm) hqp').trans hcleared.clear_eq
  rw [hafter, present_event, decode_encode,
    react_tick_timeout (b := { b.after (bitsInputs L) with tmr := t }) hlst' harmed' (by simp only; omega), hclear, hresult]

theorem Block.after_concat (b : Block) (is : List Input) (i : Input) :
    b.after (is ++ [i]) = ((b.after is).present i).1 := b.after_append is [i]

theorem Block.results_concat (b : Block) (is : List Input) (i : Input) :
    b.results (is ++ [i]) = b.results is ++ [((b.after is).present i).2] := b.results_append is [i]

theorem waitInputs_succ (n : Nat) : waitInputs (n + 1) = waitInputs n ++ [.event (encode .tick)] := by
  simp [waitInputs, List.replicate_succ', eventInputs]

/-- Settles O36: the wait of a FRAME is a gap of QP - 1 ticks and the last tick. -/
theorem aFrameYieldsWhatTheLengthMapSays : Obligations.AFrameYieldsWhatTheLengthMapSays := by
  intro b L h hphase hL
  obtain ⟨hlst, -⟩ := b.phase_eq_empty_iff.mp hphase
  obtain ⟨n, hn⟩ : ∃ n, b.qp.toNat = n + 1 := ⟨b.qp.toNat - 1, by have := h.v6.1; omega⟩
  have hgap : ∀ i ∈ List.replicate n Instr.tick, isGapEvent i = true := fun i hi => by
    rw [List.eq_of_mem_replicate hi]; rfl
  have hcount : tickCount (List.replicate n .tick) = n := List.count_replicate_self
  have hlast := Block.present_last_tick h hphase hL hgap (by omega)
  obtain ⟨-, hresults⟩ := Block.run_within_quiet_period hlst hL hgap (by omega)
  have hline : lineInputs b.qp (.frame L) = (bitsInputs L ++ waitInputs n) ++ [.event (encode .tick)] := by
    rw [lineInputs, hn, waitInputs_succ, List.append_assoc]
  rw [hline, Block.results_concat, Block.after_concat]
  rw [← waitInputs] at hlast hresults
  rw [hlast, hresults, List.map_replicate, gapResult_tick, List.replicate_append_replicate, hn]
  exact ⟨rfl, rfl⟩

/-- Settles O37: below QP ticks the gap moves TMR alone, which the next edge overwrites; else the QP-th tick leads
back to the EMPTY block, which the rest of the gap leaves as it is. -/
theorem quietPeriodAloneSeparatesRuns : Obligations.QuietPeriodAloneSeparatesRuns := by
  intro b L M gap h hphase hL hM hgap
  obtain ⟨hlst, hunarmed⟩ := b.phase_eq_empty_iff.mp hphase
  refine ⟨fun hticks => ?_, fun hticks => ?_⟩
  · obtain ⟨hlst', -⟩ := Block.after_bitsInputs_timer hlst hL
    obtain ⟨⟨t, -, hafter⟩, hresults⟩ := Block.run_within_quiet_period hlst hL hgap hticks
    rw [Block.after_append, Block.results_append, hafter, hresults, bitsInputs_append, Block.after_append]
    exact ⟨Block.after_bitsInputs_with_tmr hlst' t hM, List.forall_mem_append.mpr
      ⟨List.forall_mem_append.mpr ⟨replicate_none_not_decoded _, gapResults_not_decoded gap⟩,
        Block.results_bitsInputs_not_decoded (b := { b.after (bitsInputs L) with tmr := t }) hlst' M⟩⟩
  · obtain ⟨before, later, rfl, hcount⟩ := exists_split_at_tick h.v6.1 hticks
    obtain ⟨hbefore, hlater⟩ := List.forall_mem_append.mp hgap
    obtain ⟨-, hlater⟩ := List.forall_mem_cons.mp hlater
    have hlast := Block.present_last_tick h hphase hL hbefore hcount
    obtain ⟨-, hresults⟩ := Block.run_within_quiet_period hlst hL hbefore (by omega)
    obtain ⟨hafterLater, hresultsLater⟩ := Block.run_gap_of_unarmed hlst hunarmed hlater
    have hback : b.after (bitsInputs L ++ eventInputs (before ++ [.tick])) = b := by
      rw [eventInputs_append, ← List.append_assoc]
      exact (Block.after_concat ..).trans (congrArg Prod.fst hlast)
    refine ⟨?_, before, later, rfl, hcount, congrArg Prod.snd hlast, ?_, ?_⟩
    · rw [List.append_cons, eventInputs_append, ← List.append_assoc, Block.after_append, Block.after_append, hback,
        hafterLater]
    · rw [hresults]
      exact List.forall_mem_append.mpr ⟨replicate_none_not_decoded _, gapResults_not_decoded before⟩
    · rw [hback, Block.results_append, hafterLater, hresultsLater]
      exact List.forall_mem_append.mpr ⟨gapResults_not_decoded later, Block.results_bitsInputs_not_decoded hlst M⟩

end Sys2Proof.Machine
end

section
/-! PROOFS. The Frame Classifier (41_frame_classifier.md): what the frame of a timeout reads as, as sums over the cells of
the buffer, for a keypad digit (R113, R126), a reader candidate (R111, R112, R121 to R125) and every other length (R114). -/

namespace Sys2Proof.Machine

open Sys2Proof.Claims

/-! ### A slice of the leading cells (00_scope.md R10) -/

theorem Block.cells_firstCells_length (b : Block) {n hi : Nat} (hhi : hi < n) (hn : n ≤ 34) (lo : Nat) :
    (cells (b.firstCells n) lo hi).length = hi + 1 - lo := by
  simp [cells]
  omega

theorem Block.cells_firstCells_getD (b : Block) {n lo hi j : Nat} (hhi : hi < n) (hj : j < hi + 1 - lo) :
    (cells (b.firstCells n) lo hi).getD j false = b.cell (lo + j) := by
  rw [← b.firstCells_getD (show lo + j < n by omega)]
  simp [cells, List.getD_eq_getElem?_getD, hj]

theorem popcount_eq_sum (L : List Bool) : popcount L = ∑ j ∈ Finset.range L.length, (L.getD j false).toNat := by
  induction L with
  | nil => rfl
  | cons b bs ih =>
    have hcons : popcount (b :: bs) = popcount bs + b.toNat := by cases b <;> simp [popcount]
    rw [hcons, ih, List.length_cons, Finset.sum_range_succ']
    rfl

theorem Block.popcount_cells_firstCells (b : Block) {n hi : Nat} (hhi : hi < n) (hn : n ≤ 34) (lo : Nat) :
    popcount (cells (b.firstCells n) lo hi) = onesIn b lo (hi + 1) := by
  rw [popcount_eq_sum, b.cells_firstCells_length hhi hn, onesIn, Finset.sum_Ico_eq_sum_range]
  refine Finset.sum_congr rfl fun j hj => ?_
  rw [b.cells_firstCells_getD hhi (Finset.mem_range.mp hj)]

theorem Block.val_cells_firstCells (b : Block) {n hi : Nat} (hhi : hi < n) (hn : n ≤ 34) (lo : Nat) :
    val (cells (b.firstCells n) lo hi) = ∑ i ∈ Finset.Ico lo (hi + 1), (b.cell i).toNat * 2 ^ (hi - i) := by
  rw [val_eq_sum, b.cells_firstCells_length hhi hn, Finset.sum_Ico_eq_sum_range]
  refine Finset.sum_congr rfl fun j hj => ?_
  rw [b.cells_firstCells_getD hhi (Finset.mem_range.mp hj), show hi + 1 - lo - 1 - j = hi - (lo + j) by omega]

theorem Block.val_cells_firstCells_lt (b : Block) {n hi : Nat} (hhi : hi < n) (hn : n ≤ 34) (lo : Nat) :
    val (cells (b.firstCells n) lo hi) < 2 ^ (hi + 1 - lo) := by
  rw [← b.cells_firstCells_length hhi hn lo]
  exact val_lt_two_pow_length _

/-! ### The keypad digit and the dropped lengths (R113, R114, R126) -/

theorem Block.keypadValue_toNat (b : Block) : (keypadValue (b.firstCells 4)).toNat =
    (b.cell 0).toNat * 8 + (b.cell 1).toNat * 4 + (b.cell 2).toNat * 2 + (b.cell 3).toNat := by
  have hlt := b.val_cells_firstCells_lt (show 3 < 4 by decide) (by decide) 0
  rw [keypadValue, BitVec.toNat_ofNat, Nat.mod_eq_of_lt hlt, b.val_cells_firstCells (by decide) (by decide)]
  simp [Finset.sum_range_succ]

/-- Settles O12: of the counts up to 25 only 4 matches a row of the classifier. -/
theorem keypadFrameAndDroppedLengths : Obligations.KeypadFrameAndDroppedLengths := by
  intro s hfiring hcnt
  refine ⟨_, exec_tick_of_firing hfiring, rfl, fun hkeypad => ?_, fun hkeypad => ?_⟩
  · exact ⟨_, Block.timeoutResult_of_keypad hkeypad, s.block.keypadValue_toNat⟩
  · exact Block.timeoutResult_of_dropped (Nat.lt_succ_of_le hcnt) hkeypad

/-! ### The reader candidate (R111, R112, 42_parity_validator.md R120 to R125) -/

theorem ReaderLength.bits_range (n : ReaderLength) : 26 ≤ n.bits ∧ n.bits ≤ 34 := by cases n <;> decide

theorem Block.evenOk_firstCells (b : Block) (n : ReaderLength) :
    evenOk n (b.firstCells n.bits) = true ↔ onesIn b 0 (n.bits / 2) % 2 = 0 := by
  obtain ⟨hmin, hmax⟩ := n.bits_range
  have hend : n.bits / 2 - 1 + 1 = n.bits / 2 := by omega
  rw [evenOk, ReaderLength.half, b.popcount_cells_firstCells (by omega) hmax, hend, beq_iff_eq]

theorem Block.oddOk_firstCells (b : Block) (n : ReaderLength) :
    oddOk n (b.firstCells n.bits) = true ↔ onesIn b (n.bits / 2) n.bits % 2 = 1 := by
  obtain ⟨hmin, hmax⟩ := n.bits_range
  have hend : n.bits - 1 + 1 = n.bits := by omega
  rw [oddOk, ReaderLength.half, b.popcount_cells_firstCells (by omega) hmax, hend, beq_iff_eq]

/-- R124: the value is what lies between the two parity bits, and no longer than the value field. -/
theorem Block.readerValue_toNat (b : Block) (n : ReaderLength) :
    (readerValue n (b.firstCells n.bits)).toNat = weighted b n.bits ∧ weighted b n.bits < 2 ^ (n.bits - 2) := by
  obtain ⟨hmin, hmax⟩ := n.bits_range
  have hend : n.bits - 2 + 1 = n.bits - 1 := by omega
  have hval := b.val_cells_firstCells (show n.bits - 2 < n.bits by omega) hmax 1
  have hlt := b.val_cells_firstCells_lt (show n.bits - 2 < n.bits by omega) hmax 1
  rw [hend, ← weighted] at hval
  rw [Nat.add_sub_cancel, hval] at hlt
  have hfits : 2 ^ (n.bits - 2) ≤ 2 ^ 32 := Nat.pow_le_pow_right (by decide) (by omega)
  rw [readerValue, BitVec.toNat_ofNat, hval]
  exact ⟨Nat.mod_eq_of_lt (by omega), hlt⟩

/-- The validator on the leading cells, both parities and the value read off the buffer. -/
theorem Block.validate_firstCells (b : Block) (n : ReaderLength) :
    ReaderOutcome b n.bits (validate n (b.firstCells n.bits)) := by
  have hpass : (evenOk n (b.firstCells n.bits) && oddOk n (b.firstCells n.bits)) = true ↔
      onesIn b 0 (n.bits / 2) % 2 = 0 ∧ onesIn b (n.bits / 2) n.bits % 2 = 1 := by
    rw [Bool.and_eq_true, b.evenOk_firstCells, b.oddOk_firstCells]
  obtain ⟨hvalue, hlt⟩ := b.readerValue_toNat n
  exact ⟨fun h => ⟨_, if_pos (hpass.mpr h), hvalue, hvalue ▸ hlt⟩, fun h => if_neg (mt hpass.mp h)⟩

/-- Settles O13: the timeout's result is the validator's on the first 26 or 34 cells. -/
theorem readerFramesAreValidated : Obligations.ReaderFramesAreValidated := by
  intro s hfiring hcnt
  refine ⟨_, exec_tick_of_firing hfiring, rfl, fun hshort => ?_, fun hlong => ?_⟩
  · rw [Block.timeoutResult_of_short hcnt (Nat.lt_succ_of_le hshort)]
    exact s.block.validate_firstCells .short
  · rw [Block.timeoutResult_of_long hlong]
    exact s.block.validate_firstCells .long

end Sys2Proof.Machine
end

section
/-! PROOFS. The Parity Validator (42_parity_validator.md): each parity check as an exclusive-or (R128 b), the drop of every
single-bit error (R127), and the one frame of each reader value (R128 g). -/

namespace Sys2Proof.Machine

open Sys2Proof.Claims

/-! ### The exclusive-or of a list of bits -/

/-- The exclusive-or of all bits of a list (R128 b). -/
def xorAll (L : List Bool) : Bool := L.foldr Bool.xor false

@[simp] theorem xorAll_nil : xorAll [] = false := rfl

@[simp] theorem xorAll_cons (b : Bool) (bs : List Bool) : xorAll (b :: bs) = (b ^^ xorAll bs) := rfl

@[simp] theorem xorAll_concat (L : List Bool) (b : Bool) : xorAll (L ++ [b]) = (xorAll L ^^ b) := by
  induction L with
  | nil => simp
  | cons c cs ih => rw [List.cons_append, xorAll_cons, ih, xorAll_cons, Bool.xor_assoc]

/-- The exclusive-or is the parity of the number of set bits. -/
theorem popcount_mod_two (L : List Bool) : popcount L % 2 = (xorAll L).toNat := by
  induction L with
  | nil => rfl
  | cons b bs ih =>
    cases b with
    | false => simpa [popcount] using ih
    | true =>
      have hcons : popcount (true :: bs) = popcount bs + 1 := List.count_cons_self
      rw [hcons, Nat.add_mod, ih, xorAll_cons]
      cases xorAll bs <;> rfl

/-- Inverting any one bit inverts the exclusive-or. -/
theorem xorAll_set_not {L : List Bool} {j : Nat} (hj : j < L.length) :
    xorAll (L.set j (!L.getD j false)) = !xorAll L := by
  induction L generalizing j with
  | nil => cases hj
  | cons b bs ih =>
    cases j with
    | zero => simp
    | succ j =>
      have htail := ih (Nat.lt_of_succ_lt_succ hj)
      rw [List.getD_cons_succ, List.set_cons_succ, xorAll_cons, htail, xorAll_cons, Bool.xor_not]

/-! ### The two checks (R121, R122, R123, R128 b) -/

/-- Both halves of a reader frame have a bit, and the second ends where the frame does (R123). -/
theorem ReaderLength.half_pos_lt (n : ReaderLength) : 0 < n.half ∧ n.half < n.bits := by cases n <;> decide

theorem evenOk_eq_xorAll (n : ReaderLength) (F : List Bool) : evenOk n F = !xorAll (F.take n.half) := by
  have hslice : cells F 0 (n.half - 1) = F.take n.half := by
    rw [cells, List.drop_zero, Nat.sub_zero, Nat.sub_add_cancel n.half_pos_lt.1]
  rw [evenOk, hslice, popcount_mod_two]
  cases xorAll (F.take n.half) <;> rfl

theorem oddOk_eq_xorAll {n : ReaderLength} {F : List Bool} (hlen : F.length = n.bits) :
    oddOk n F = xorAll (F.drop n.half) := by
  have hslice : cells F n.half (n.bits - 1) = F.drop n.half := by
    have := n.half_pos_lt
    exact List.take_of_length_le (by rw [List.length_drop]; omega)
  rw [oddOk, hslice, popcount_mod_two]
  cases xorAll (F.drop n.half) <;> rfl

/-- Settles O14: a count of set bits is odd exactly when their exclusive-or is 1, and the checks' slices are the halves. -/
theorem parityChecksAreExclusiveOrs : Obligations.ParityChecksAreExclusiveOrs := fun n F hlen =>
  ⟨evenOk_eq_xorAll n F, oddOk_eq_xorAll hlen⟩

theorem validate_eq_reader_iff {n : ReaderLength} {F : List Bool} {v : Value} :
    validate n F = .reader v ↔ evenOk n F = true ∧ oddOk n F = true ∧ readerValue n F = v := by
  cases heven : evenOk n F <;> cases hodd : oddOk n F <;> simp [validate, heven, hodd]

theorem validate_eq_none_iff {n : ReaderLength} {F : List Bool} :
    validate n F = .none ↔ evenOk n F = false ∨ oddOk n F = false := by
  simp [validate, ← Bool.not_eq_true, imp_iff_not_or]

/-! ### Single-bit errors (R127) -/

/-- Inverting a bit of an accepted frame fails the check of the half the bit is in. -/
theorem validate_set_not {n : ReaderLength} {F : List Bool} {v : Value} (hlen : F.length = n.bits)
    (hpass : validate n F = .reader v) {j : Nat} (hj : j < n.bits) :
    validate n (F.set j (!F.getD j false)) = .none := by
  obtain ⟨heven, hodd, -⟩ := validate_eq_reader_iff.mp hpass
  rw [evenOk_eq_xorAll] at heven
  rw [oddOk_eq_xorAll hlen] at hodd
  have hlen' : (F.set j (!F.getD j false)).length = n.bits := by rw [List.length_set, hlen]
  rw [validate_eq_none_iff, evenOk_eq_xorAll, oddOk_eq_xorAll hlen']
  have hhalf := n.half_pos_lt
  by_cases hfirst : j < n.half
  · left
    have hbit : F.getD j false = (F.take n.half).getD j false := by
      simp [List.getD_eq_getElem?_getD, hfirst]
    have hin : j < (F.take n.half).length := by rw [List.length_take]; omega
    rw [hbit, List.take_set, xorAll_set_not hin, heven, Bool.not_true]
  · right
    have hbit : F.getD j false = (F.drop n.half).getD (j - n.half) false := by
      simp [List.getD_eq_getElem?_getD, Nat.add_sub_cancel' (Nat.le_of_not_lt hfirst)]
    have hin : j - n.half < (F.drop n.half).length := by rw [List.length_drop]; omega
    rw [hbit, List.drop_set, if_neg hfirst, xorAll_set_not hin, hodd, Bool.not_true]

/-- A reader candidate of 26 to 33 bits, or of 34 and more, goes to the validator (R111, R112). -/
theorem Block.timeoutResult_of_holdsReader {b : Block} {n : ReaderLength} (h : holdsReader n b.cnt) :
    b.timeoutResult = validate n (b.firstCells n.bits) := by
  cases n with
  | short => exact timeoutResult_of_short h.1 (Nat.lt_succ_of_le h.2)
  | long => exact timeoutResult_of_long h

/-- Inverting a cell of the buffer inverts that bit of the leading cells, when they cover it (20_memory.md R53). -/
theorem Block.firstCells_withBuf_set_not (b : Block) {n j : Nat} (hj : j < n) (hcell : j < 34) :
    (b.withBuf (b.buf.set j (!b.cell j) hcell)).firstCells n =
      (b.firstCells n).set j (!(b.firstCells n).getD j false) := by
  rw [b.firstCells_getD hj, firstCells, firstCells, withBuf, Vector.toList_set, List.take_set]

/-- The count selects the same frame length, and the frame with one bit inverted fails a check. -/
theorem Block.timeoutResult_withBuf_set_not {b : Block} {n : ReaderLength} {v : Value} {j : Nat}
    (hholds : holdsReader n b.cnt) (hresult : b.timeoutResult = .reader v) (hj : j < n.bits) (hcell : j < 34) :
    (b.withBuf (b.buf.set j (!b.cell j) hcell)).timeoutResult = .none := by
  rw [timeoutResult_of_holdsReader hholds] at hresult
  have hlen : (b.firstCells n.bits).length = n.bits := by rw [firstCells_length, Nat.min_eq_left n.bits_range.2]
  have hholds' : holdsReader n (b.withBuf (b.buf.set j (!b.cell j) hcell)).cnt := hholds
  rw [timeoutResult_of_holdsReader hholds', b.firstCells_withBuf_set_not hj]
  exact validate_set_not hlen hresult hj

/-- Settles O15: both TICKs fire, with the timeout's result of the cells as they are and with one inverted. -/
theorem singleBitErrorsAreDropped : Obligations.SingleBitErrorsAreDropped := by
  intro n s v j hcell hfiring hholds hj haccepted
  obtain ⟨t, ht, hreader⟩ := haccepted
  rw [exec_tick_of_firing hfiring] at ht
  cases ht
  exact ⟨_, exec_tick_of_firing (s := withCells s _) hfiring,
    Block.timeoutResult_withBuf_set_not hholds hreader hj hcell⟩

/-! ### The frame of a reader value (R124, R128 g) -/

/-- Every number below 2^k is the value of some k bits (R10). -/
theorem exists_val_eq {k v : Nat} (hv : v < 2 ^ k) : ∃ L : List Bool, L.length = k ∧ val L = v := by
  induction k generalizing v with
  | zero => exact ⟨[], rfl, by rw [val_nil]; omega⟩
  | succ k ih =>
    rw [Nat.pow_succ] at hv
    by_cases hlead : v < 2 ^ k
    · obtain ⟨L, hlen, hval⟩ := ih hlead
      exact ⟨false :: L, by simp [hlen], by simp [hval]⟩
    · obtain ⟨L, hlen, hval⟩ := ih (v := v - 2 ^ k) (by omega)
      exact ⟨true :: L, by simp [hlen], by simp [hlen, hval]; omega⟩

/-- The frame of the value bits `M`: the parity bit that completes each half, before and after them (R121, R122). -/
def frameOf (n : ReaderLength) (M : List Bool) : List Bool :=
  xorAll (M.take (n.half - 1)) :: (M ++ [!xorAll (M.drop (n.half - 1))])

/-- A frame of n bits is a leading bit, n - 2 value bits and a trailing bit. -/
theorem ReaderLength.exists_parts (n : ReaderLength) {F : List Bool} (hlen : F.length = n.bits) :
    ∃ e M o, F = e :: (M ++ [o]) ∧ M.length = n.bits - 2 := by
  have hmin := n.bits_range.1
  obtain ⟨e, rest, rfl⟩ := List.exists_cons_of_length_pos (show 0 < F.length by omega)
  rw [List.length_cons] at hlen
  have hrest : rest ≠ [] := List.ne_nil_of_length_pos (by omega)
  exact ⟨e, rest.dropLast, rest.getLast hrest, by rw [List.dropLast_append_getLast], by rw [List.length_dropLast]; omega⟩

section

variable {n : ReaderLength} {M : List Bool} (hM : M.length = n.bits - 2) (e o : Bool)
include hM

theorem evenOk_parts : evenOk n (e :: (M ++ [o])) = !(e ^^ xorAll (M.take (n.half - 1))) := by
  have hhalf := n.half_pos_lt
  have hfirst : (e :: (M ++ [o])).take n.half = e :: M.take (n.half - 1) := by
    rw [List.take_cons hhalf.1, List.take_append_of_le_length (by omega)]
  rw [evenOk_eq_xorAll, hfirst, xorAll_cons]

theorem oddOk_parts : oddOk n (e :: (M ++ [o])) = (xorAll (M.drop (n.half - 1)) ^^ o) := by
  have hhalf := n.half_pos_lt
  have hlen : (e :: (M ++ [o])).length = n.bits := by
    rw [List.length_cons, List.length_append, List.length_singleton]
    omega
  have hsecond : (e :: (M ++ [o])).drop n.half = M.drop (n.half - 1) ++ [o] := by
    rw [← Nat.sub_add_cancel hhalf.1, List.drop_succ_cons, List.drop_append_of_le_length (by omega), Nat.add_sub_cancel]
  rw [oddOk_eq_xorAll hlen, hsecond, xorAll_concat]

/-- The value field holds the value bits without loss (R124, R128 a). -/
theorem readerValue_parts : (readerValue n (e :: (M ++ [o]))).toNat = val M := by
  obtain ⟨hmin, hmax⟩ := n.bits_range
  have hslice : cells (e :: (M ++ [o])) 1 (n.bits - 2) = M := by
    rw [cells, List.drop_succ_cons, List.drop_zero, Nat.add_sub_cancel, ← hM, List.take_left]
  have hfits : 2 ^ M.length ≤ 2 ^ 32 := Nat.pow_le_pow_right (by decide) (by omega)
  rw [readerValue, hslice, BitVec.toNat_ofNat, Nat.mod_eq_of_lt ((val_lt_two_pow_length M).trans_le hfits)]

/-- With the value bits between them, exactly one leading and one trailing bit pass the checks. -/
theorem validate_parts_eq_reader_iff (v : Value) :
    validate n (e :: (M ++ [o])) = .reader v ↔ e :: (M ++ [o]) = frameOf n M ∧ val M = v.toNat := by
  have heven : (!(e ^^ xorAll (M.take (n.half - 1)))) = true ↔ e = xorAll (M.take (n.half - 1)) := by simp
  have hodd : (xorAll (M.drop (n.half - 1)) ^^ o) = true ↔ o = !xorAll (M.drop (n.half - 1)) := by
    cases xorAll (M.drop (n.half - 1)) <;> simp
  rw [validate_eq_reader_iff, evenOk_parts hM, oddOk_parts hM, heven, hodd, ← BitVec.toNat_inj, readerValue_parts hM]
  simp [frameOf, and_assoc]

end

/-- Settles O16: the value fixes the bits between the parity bits, and these fix the two parity bits. -/
theorem everyValueHasExactlyOneFrame : Obligations.EveryValueHasExactlyOneFrame := by
  intro n v hv
  obtain ⟨M, hM, hval⟩ := exists_val_eq hv
  have hmin := n.bits_range.1
  refine ⟨frameOf n M, ⟨?_, (validate_parts_eq_reader_iff hM _ _ v).mpr ⟨rfl, hval⟩⟩, fun F hF => ?_⟩
  · simp only [frameOf, List.length_cons, List.length_append, List.length_nil]
    omega
  · obtain ⟨hlen, hpass⟩ := hF
    obtain ⟨e, N, o, rfl, hN⟩ := n.exists_parts hlen
    obtain ⟨hframe, hvalN⟩ := (validate_parts_eq_reader_iff hN e o v).mp hpass
    rw [hframe, val_injective_of_length_eq (hN.trans hM.symm) (hvalN.trans hval.symm)]

end Sys2Proof.Machine
end

section
/-! PROOFS. The lifecycle (43_lifecycle.md): BEGIN, STOP and the reserved codes (R136 to R140), STOP and BEGIN against
reset and BEGIN (R141), and how READY and STOPPED alternate (R143). -/

namespace Sys2Proof.Machine

/-! ### BEGIN (R136, R137) -/

theorem quietPeriod_zero : quietPeriod 0 = quietPeriod 25 := rfl

theorem Block.react_begin_of_listening {b : Block} (hlst : b.lst = .listening) (arg : Ticks) :
    b.react (.begin arg) = (b, .reject .alreadyListening) :=
  react_gap hlst rfl nofun

/-- The quiet period is all that BEGIN takes from its operand. -/
theorem Block.react_begin_congr (b : Block) {arg arg' : Ticks} (h : quietPeriod arg = quietPeriod arg') :
    b.react (.begin arg) = b.react (.begin arg') := by
  rw [react, react, h]

/-- Settles O17: BEGIN from Idle latches its quiet period, and 0 and 25 stand for the same one. -/
theorem beginFromIdleIsAccepted : Obligations.BeginFromIdleIsAccepted := by
  refine ⟨fun arg s hlst => ?_, fun s => ?_⟩
  · rw [exec_react, Block.react_begin_of_idle hlst]
    rfl
  · rw [exec_react, exec_react, s.block.react_begin_congr quietPeriod_zero]

/-- Settles O18: the reaction to BEGIN is the Listening block itself, with cause 1. -/
theorem beginWhileListeningIsRejected : Obligations.BeginWhileListeningIsRejected := by
  intro arg s hlst
  rw [exec_react, Block.react_begin_of_listening hlst]
  exact ⟨rfl, rfl⟩

/-! ### STOP (R138, R139) -/

theorem Block.react_stop_of_listening {b : Block} (hlst : b.lst = .listening) :
    b.react .stop = ({ b.clear with lst := .idle }, .stopped) := by
  rw [react, if_pos hlst]

/-- Settles O19: the reaction to STOP is the cleared block, Idle. -/
theorem stopFromListeningIsAccepted : Obligations.StopFromListeningIsAccepted := by
  intro s hlst
  rw [exec_react, Block.react_stop_of_listening hlst]
  rfl

/-- Settles O20: the reaction to STOP is the Idle block itself, with cause 2. -/
theorem stopWhileIdleIsRejected : Obligations.StopWhileIdleIsRejected := by
  intro s hlst
  rw [exec_react, Block.react_of_idle hlst (i := .stop) fun _ => nofun]
  exact ⟨rfl, rfl⟩

/-! ### The reserved codes (R140) -/

/-- The codes from 6 up are refused, in both lifecycle states. -/
theorem Block.react_of_reserved (b : Block) {i : Instr} (hop : 6 ≤ i.op.toNat) :
    b.react i = (b, .reject .reservedCode) := by
  cases i with
  | nop | d0 | d1 | tick | begin | stop => simp [Instr.op] at hop
  | _ => rfl

theorem exec_of_reserved (s : State) {i : Instr} (hop : 6 ≤ i.op.toNat) :
    exec i s = .next { s with result := .reject .reservedCode } := by
  rw [exec_react, s.block.react_of_reserved hop]
  rfl

/-- Settles O21: the ten events have the codes 6 to 15, and the code of a decoded event is its word's. -/
theorem reservedCodesAreRejected : Obligations.ReservedCodesAreRejected := by
  refine ⟨fun i hi s => exec_of_reserved s ?_, fun s w hop => exec_of_reserved s ?_, rfl⟩
  · revert i
    decide
  · rwa [decode_op]

/-! ### STOP and BEGIN against reset and BEGIN (R141) -/

theorem Block.after_eventInputs_cons (b : Block) (i : Instr) (is : List Instr) :
    b.after (eventInputs (i :: is)) = (b.react i).1.after (eventInputs is) := by
  rw [eventInputs_cons, after, present_event, decode_encode]

theorem Block.results_eventInputs_cons (b : Block) (i : Instr) (is : List Instr) :
    b.results (eventInputs (i :: is)) = (b.react i).2 :: (b.react i).1.results (eventInputs is) := by
  rw [eventInputs_cons, results, present_event, decode_encode]

/-- Settles O39: both runs overwrite every element of the block, the quiet period by the one of BEGIN. -/
theorem stopThenBeginIsResetThenBegin : Obligations.StopThenBeginIsResetThenBegin := by
  intro b arg hlst
  rw [Block.results_eventInputs_cons, Block.after_eventInputs_cons, Block.react_stop_of_listening hlst,
    Block.results_eventInputs_cons, Block.after_eventInputs_cons, Block.react_begin_of_idle rfl,
    Block.after, Block.present_reset, Block.after_eventInputs_cons, Block.react_begin_of_idle rfl]
  exact ⟨rfl, rfl, rfl⟩

/-! ### READY and STOPPED alternate (R143) -/

/-- A result that is neither READY nor STOPPED leaves the side of the alternation as it is. -/
theorem alternates_cons_of_not_lifecycle {listening : Bool} {r : Result} (hready : r ≠ .ready) (hstopped : r ≠ .stopped)
    (hdecoded : r.isDecoded = true → listening = true) (rs : List Result) :
    alternates listening (r :: rs) = alternates listening rs := by
  cases r with
  | none | reject => rfl
  | keypad | reader => rw [alternates, hdecoded rfl, Bool.true_and]
  | ready => exact absurd rfl hready
  | stopped => exact absurd rfl hstopped

theorem idleResult_ne_ready (i : Instr) : idleResult i ≠ .ready := by cases i <;> nofun

theorem gapResult_ne_ready_or_stopped (i : Instr) : gapResult i ≠ .ready ∧ gapResult i ≠ .stopped := by
  cases i <;> exact ⟨nofun, nofun⟩

theorem validate_ne_ready_or_stopped (n : ReaderLength) (F : List Bool) :
    validate n F ≠ .ready ∧ validate n F ≠ .stopped := by
  unfold validate
  split <;> exact ⟨nofun, nofun⟩

theorem Block.timeoutResult_ne_ready_or_stopped (b : Block) :
    b.timeoutResult ≠ .ready ∧ b.timeoutResult ≠ .stopped := by
  unfold timeoutResult classify
  split_ifs
  · exact validate_ne_ready_or_stopped _ _
  · exact validate_ne_ready_or_stopped _ _
  all_goals exact ⟨nofun, nofun⟩

/-- How one event moves the lifecycle, and what its result tells of the move. -/
inductive Block.LifecycleMove (b : Block) : Block × Result → Prop
  | ready (c : Block) (hb : b.lst = .idle) (hc : c.lst = .listening) : LifecycleMove b (c, .ready)
  | stopped (c : Block) (hb : b.lst = .listening) (hc : c.lst = .idle) : LifecycleMove b (c, .stopped)
  | same (c : Block) (r : Result) (hlst : c.lst = b.lst) (hr : r ≠ .ready ∧ r ≠ .stopped)
      (hdecoded : r.isDecoded = true → b.lst = .listening) : LifecycleMove b (c, r)

theorem Block.lifecycleMove_react_of_idle {b : Block} (hlst : b.lst = .idle) (i : Instr) :
    b.LifecycleMove (b.react i) := by
  by_cases hbegin : ∃ arg, i = .begin arg
  · obtain ⟨arg, rfl⟩ := hbegin
    rw [react_begin_of_idle hlst]
    exact .ready _ hlst rfl
  · rw [react_of_idle hlst (not_exists.mp hbegin)]
    obtain ⟨hdecoded, hstopped⟩ := idleResult_not_decoded_or_stopped i
    exact .same _ _ rfl ⟨idleResult_ne_ready i, hstopped⟩ (by simp [hdecoded])

theorem Block.lifecycleMove_react_edgeEvent {b : Block} (hlst : b.lst = .listening) (bit : Bool) :
    b.LifecycleMove (b.react (edgeEvent bit)) := by
  rw [react_edgeEvent hlst]
  exact .same _ _ (b.edge_lst bit) ⟨nofun, nofun⟩ fun _ => hlst

theorem Block.lifecycleMove_react_gap {b : Block} (hlst : b.lst = .listening) {i : Instr} (hgap : isGapEvent i = true)
    (hquiet : i = .tick → b.armed = false) : b.LifecycleMove (b.react i) := by
  rw [react_gap hlst hgap hquiet]
  exact .same _ _ rfl (gapResult_ne_ready_or_stopped i) fun _ => hlst

theorem Block.lifecycleMove_react_tick {b : Block} (hlst : b.lst = .listening) : b.LifecycleMove (b.react .tick) := by
  by_cases harmed : b.armed = true
  · by_cases htmr : 1 < b.tmr.toNat
    · rw [react_tick_countDown hlst harmed htmr]
      exact .same _ _ rfl ⟨nofun, nofun⟩ fun _ => hlst
    · rw [react_tick_timeout hlst harmed (Nat.le_of_not_lt htmr)]
      exact .same _ _ b.clear_lst b.timeoutResult_ne_ready_or_stopped fun _ => hlst
  · exact lifecycleMove_react_gap hlst rfl fun _ => Bool.eq_false_of_not_eq_true harmed

theorem Block.lifecycleMove_react_of_listening {b : Block} (hlst : b.lst = .listening) (i : Instr) :
    b.LifecycleMove (b.react i) := by
  cases i with
  | d0 => exact lifecycleMove_react_edgeEvent hlst false
  | d1 => exact lifecycleMove_react_edgeEvent hlst true
  | tick => exact lifecycleMove_react_tick hlst
  | stop =>
    rw [react_stop_of_listening hlst]
    exact .stopped _ hlst rfl
  | _ => exact lifecycleMove_react_gap hlst rfl nofun

theorem Block.lifecycleMove_react (b : Block) (i : Instr) : b.LifecycleMove (b.react i) := by
  cases hlst : b.lst with
  | idle => exact lifecycleMove_react_of_idle hlst i
  | listening => exact lifecycleMove_react_of_listening hlst i

/-- A move of the lifecycle is a step of the alternation: its result fits the state before it, and what follows has to
fit the state after it. -/
theorem Block.LifecycleMove.alternates_cons {b : Block} {p : Block × Result} (hmove : b.LifecycleMove p)
    (rs : List Result) :
    alternates (decide (b.lst = .listening)) (p.2 :: rs) = alternates (decide (p.1.lst = .listening)) rs := by
  cases hmove with
  | ready c hb hc => simp [alternates, hb, hc]
  | stopped c hb hc => simp [alternates, hb, hc]
  | same c r hlst hr hdecoded =>
    rw [hlst]
    exact alternates_cons_of_not_lifecycle hr.1 hr.2 (fun h => decide_eq_true (hdecoded h)) rs

/-- The results of a run of events have the shape of R143, from the lifecycle state the block is in. -/
theorem Block.alternates_results (b : Block) (ws : List EventWord) :
    alternates (decide (b.lst = .listening)) (b.results (ws.map Input.event)) = true := by
  induction ws generalizing b with
  | nil => rfl
  | cons w ws ih =>
    rw [List.map_cons, results, present_event, (b.lifecycleMove_react (decode w)).alternates_cons]
    exact ih _

/-- Settles O42: reset leaves the block Idle, and a run alternates from the lifecycle state it starts in. -/
theorem readyAndStoppedAlternate : Obligations.ReadyAndStoppedAlternate :=
  ⟨Block.reset.alternates_results, fun b ws hlst => by simpa [hlst] using b.alternates_results ws⟩

end Sys2Proof.Machine
end

section
/-! PROOFS. The refused commands (60_exceptions.md): the three causes of a REJECT, and what a refusal leaves unchanged
(R151). -/

namespace Sys2Proof.Machine

/-- The table of R151: block `b` refuses event `i` with cause `c`. -/
def Block.Refuses (b : Block) (i : Instr) (c : RejectCause) : Prop :=
  ((∃ a, i = .begin a) ∧ b.lst = .listening ∧ c.code = 1) ∨
  (i = .stop ∧ b.lst = .idle ∧ c.code = 2) ∨
  (6 ≤ i.op.toNat ∧ c.code = 3)

/-- Two causes with one code give one REJECT word, and a result word has one result (30_encoding.md R77). -/
theorem RejectCause.code_injective : Function.Injective RejectCause.code := fun c d h =>
  Result.reject.inj <| Result.word_injective (a₁ := .reject c) (a₂ := .reject d) <| by
    simp [Result.word, Result.kind, Result.value, h]

/-- A refusal is the block's whole reaction: the block itself, and REJECT with the cause. -/
theorem Block.react_of_refuses {b : Block} {i : Instr} {c : RejectCause} (h : b.Refuses i c) :
    b.react i = (b, .reject c) := by
  obtain ⟨⟨a, rfl⟩, hlst, hcode⟩ | ⟨rfl, hlst, hcode⟩ | ⟨hop, hcode⟩ := h
  · obtain rfl : c = .alreadyListening := RejectCause.code_injective hcode
    exact react_begin_of_listening hlst a
  · obtain rfl : c = .alreadyIdle := RejectCause.code_injective hcode
    exact react_of_idle hlst fun _ => nofun
  · obtain rfl : c = .reservedCode := RejectCause.code_injective hcode
    exact b.react_of_reserved hop

/-! ### What is never refused: the timeout, TICK and the edges -/

theorem validate_ne_reject (n : ReaderLength) (F : List Bool) (c : RejectCause) : validate n F ≠ .reject c := by
  unfold validate
  split <;> nofun

theorem Block.timeoutResult_ne_reject (b : Block) (c : RejectCause) : b.timeoutResult ≠ .reject c := by
  unfold timeoutResult classify
  split_ifs
  · exact validate_ne_reject _ _ c
  · exact validate_ne_reject _ _ c
  all_goals nofun

theorem Block.react_tick_ne_reject (b : Block) (c : RejectCause) : (b.react .tick).2 ≠ .reject c := by
  by_cases hpending : b.lst = .listening ∧ b.armed = true
  · obtain ⟨hlst, harmed⟩ := hpending
    by_cases htmr : 1 < b.tmr.toNat
    · rw [react_tick_countDown hlst harmed htmr]
      nofun
    · rw [react_tick_timeout hlst harmed (Nat.le_of_not_lt htmr)]
      exact b.timeoutResult_ne_reject c
  · rw [react_tick_of_no_timer hpending]
    nofun

theorem Block.react_edgeEvent_ne_reject (b : Block) (bit : Bool) (c : RejectCause) :
    (b.react (edgeEvent bit)).2 ≠ .reject c := by
  cases hlst : b.lst with
  | idle => rw [react_edgeEvent_of_idle hlst]; nofun
  | listening => rw [react_edgeEvent hlst]; nofun

/-! ### The causes are the only ones (R151) -/

theorem Block.refuses_of_react {b : Block} {i : Instr} {c : RejectCause} (h : (b.react i).2 = .reject c) :
    b.Refuses i c := by
  cases i with
  | nop => cases h
  | d0 => exact absurd h (b.react_edgeEvent_ne_reject false c)
  | d1 => exact absurd h (b.react_edgeEvent_ne_reject true c)
  | tick => exact absurd h (b.react_tick_ne_reject c)
  | begin a =>
    cases hlst : b.lst with
    | idle => rw [react_begin_of_idle hlst] at h; cases h
    | listening => rw [react_begin_of_listening hlst] at h; cases h; exact .inl ⟨⟨a, rfl⟩, hlst, rfl⟩
  | stop =>
    cases hlst : b.lst with
    | idle => rw [react_of_idle hlst (i := .stop) fun _ => nofun] at h; cases h; exact .inr (.inl ⟨rfl, hlst, rfl⟩)
    | listening => rw [react_stop_of_listening hlst] at h; cases h
  | _ => cases h; exact .inr (.inr ⟨by decide, rfl⟩)

theorem Block.react_eq_reject_iff (b : Block) (i : Instr) (c : RejectCause) :
    (b.react i).2 = .reject c ↔ b.Refuses i c :=
  ⟨refuses_of_react, fun h => congrArg Prod.snd (react_of_refuses h)⟩

/-- Settles O22: a REJECT has one of the three causes, and with each of them the reaction leaves the block as it is. -/
theorem rejectsHaveExactlyTheseCauses : Obligations.RejectsHaveExactlyTheseCauses := by
  intro i s
  refine ⟨_, exec_react i s, s.block.react_eq_reject_iff i, fun c hc => ?_⟩
  have hblock : (s.block.react i).1 = s.block :=
    congrArg Prod.fst (Block.react_of_refuses (Block.refuses_of_react hc))
  rw [State.resultWord, hc]
  exact ⟨hblock, Result.kindField_word _, Result.valueField_word _⟩

end Sys2Proof.Machine
end

section
/-! PROOFS. Reset (70_reset_and_hazards.md R175), the state after STOP against the reset state (R177), and when a pending
timer fires (R192). -/

namespace Sys2Proof.Machine

/-! ### A wait with a timer pending (R192) -/

/-- A wait shorter than TMR lowers TMR by its ticks and yields nothing. -/
theorem Block.run_waitInputs_below_tmr {b : Block} (hlst : b.lst = .listening) (harmed : b.armed = true) {k : Nat}
    (hk : k < b.tmr.toNat) :
    (∃ t : Ticks, t.toNat + k = b.tmr.toNat ∧ b.after (waitInputs k) = { b with tmr := t }) ∧
      b.results (waitInputs k) = List.replicate k .none := by
  have hgap : ∀ i ∈ List.replicate k Instr.tick, isGapEvent i = true := fun i hi => by
    rw [List.eq_of_mem_replicate hi]; rfl
  have hcount : tickCount (List.replicate k .tick) = k := List.count_replicate_self
  obtain ⟨hafter, hresults⟩ := run_gap_below_tmr hlst harmed hgap (by rwa [hcount])
  rw [hcount, ← waitInputs] at hafter
  rw [← waitInputs, List.map_replicate, gapResult_tick] at hresults
  exact ⟨hafter, hresults⟩

/-- The tick that ends a wait of TMR ticks fires the timeout, which reads no timer. -/
theorem Block.run_waitInputs_tmr {b : Block} (hlst : b.lst = .listening) (harmed : b.armed = true)
    (hpos : 1 ≤ b.tmr.toNat) :
    b.results (waitInputs b.tmr.toNat) = List.replicate (b.tmr.toNat - 1) .none ++ [b.timeoutResult] ∧
      b.after (waitInputs b.tmr.toNat) = b.clear := by
  obtain ⟨n, hn⟩ := Nat.exists_eq_succ_of_ne_zero (Nat.one_le_iff_ne_zero.mp hpos)
  obtain ⟨⟨t, ht, hafter⟩, hresults⟩ := run_waitInputs_below_tmr hlst harmed (k := n) (by omega)
  have hfire := react_tick_timeout (b := { b with tmr := t }) hlst harmed (by simp only; omega)
  rw [hn, Nat.succ_eq_add_one, waitInputs_succ, results_concat, after_concat, hafter, hresults, present_event,
    decode_encode, hfire]
  exact ⟨rfl, rfl⟩

/-! ### Runs without an edge, with no timer pending (R192) -/

/-- Only an edge arms the timer (10_state.md R25). -/
theorem Block.Move.unarmed {b c : Block} {i : Instr} (hmove : b.Move i c) (harmed : b.armed = false)
    (hd0 : i ≠ .d0) (hd1 : i ≠ .d1) : c.armed = false := by
  cases hmove with
  | edge bit => exact ((edgeEvent_eq_d0_or_d1 bit).elim hd0 hd1).elim
  | countDown _ harmed' => simp [harmed] at harmed'
  | timeout | stop => rfl
  | begin | keep => exact harmed

/-- With no timer pending no event fires the timeout. -/
theorem Block.react_not_decoded_of_unarmed {b : Block} (harmed : b.armed = false) (i : Instr) :
    (b.react i).2.isDecoded = false := by
  by_cases htick : i = .tick
  · rw [htick, react_tick_of_no_timer (by simp [harmed])]
    rfl
  · exact react_not_decoded htick

theorem Block.results_without_edge_not_decoded {b : Block} (harmed : b.armed = false) {is : List Instr}
    (hd0 : .d0 ∉ is) (hd1 : .d1 ∉ is) : ∀ r ∈ b.results (eventInputs is), r.isDecoded = false := by
  induction is generalizing b with
  | nil => nofun
  | cons i is ih =>
    obtain ⟨hi0, his0⟩ := List.ne_and_not_mem_of_not_mem_cons hd0
    obtain ⟨hi1, his1⟩ := List.ne_and_not_mem_of_not_mem_cons hd1
    rw [results_eventInputs_cons]
    exact List.forall_mem_cons.mpr ⟨react_not_decoded_of_unarmed harmed i,
      ih ((b.move_react i).unarmed harmed hi0.symm hi1.symm) his0 his1⟩

/-- Settles O35: V3 has a tick to wait for; below TMR ticks the block is still armed, and unarmed it stays without an
edge. -/
theorem theTimeoutFiresAfterExactlyTMRTicks : Obligations.TheTimeoutFiresAfterExactlyTMRTicks := by
  refine ⟨fun b h hlst harmed => ?_, fun b is _ harmed => Block.results_without_edge_not_decoded harmed⟩
  obtain ⟨hresults, hafter⟩ := Block.run_waitInputs_tmr hlst harmed (h.v3 harmed).1
  refine ⟨hresults, hafter, Block.clear_phase_of_listening hlst, fun k hk => ?_⟩
  obtain ⟨⟨t, -, hafter⟩, -⟩ := Block.run_waitInputs_below_tmr hlst harmed hk
  rw [hafter, Block.phase_eq_accum_iff]
  exact ⟨hlst, harmed⟩

/-! ### Reset, and the state after STOP (R175, R177) -/

/-- Settles O40: STOP leaves the reset block but for its quiet period, which no one sees of an Idle block. -/
theorem stoppedStateIsObservationallyTheResetState : Obligations.StoppedStateIsObservationallyTheResetState := by
  intro b hlst
  rw [Block.present_stop_of_listening hlst, Block.present_reset]
  exact ⟨Block.results_with_qp_of_idle (b := Block.reset) rfl b.qp, rfl, rfl, rfl, rfl⟩

/-- Settles O25: `rst = 1` is the reset input whatever the event word, and a step with it finishes with the reset block. -/
theorem resetLeadsToTheResetState : Obligations.ResetLeadsToTheResetState := by
  refine ⟨fun s ev rest hin => ?_, rfl⟩
  have hreset : s.inputs = .reset :: rest := hin
  rw [step_eq_finish_present, hreset]
  rfl

end Sys2Proof.Machine
end

section
/-! PROOFS. The refinement of the source's machine with its unbounded list (10_state.md R28): every input keeps the block
and the source's machine related, with the same result. -/

namespace Sys2Proof.Machine

/-! ### The source's machine on one event (43_lifecycle.md R135) -/

theorem SourceBlock.onEvent_edgeEvent {S : SourceBlock} (hlst : S.lst = .listening) (bit : Bool) :
    S.onEvent (edgeEvent bit) = (S.onEdge bit, .none) := by
  cases bit <;> simp [onEvent, edgeEvent, hlst]

theorem SourceBlock.onEvent_tick {S : SourceBlock} (hlst : S.lst = .listening) : S.onEvent .tick = S.onTick := by
  simp [onEvent, hlst]

theorem SourceBlock.onEvent_stop {S : SourceBlock} (hlst : S.lst = .listening) :
    S.onEvent .stop = ({ S with lst := .idle, bits := [], timer := Option.none }, .stopped) := by
  simp [onEvent, hlst]

/-- While Listening every event but an edge, TICK and STOP leaves the machine as it is. -/
theorem SourceBlock.onEvent_gap {S : SourceBlock} (hlst : S.lst = .listening) {i : Instr} (hgap : isGapEvent i = true)
    (htick : i ≠ .tick) : S.onEvent i = (S, gapResult i) := by
  cases i with
  | d0 | d1 | stop => simp [isGapEvent] at hgap
  | tick => exact absurd rfl htick
  | _ => simp [onEvent, hlst, gapResult]

theorem SourceBlock.onEvent_begin_of_idle {S : SourceBlock} (hlst : S.lst = .idle) (arg : Ticks) :
    S.onEvent (.begin arg) = ({ S with lst := .listening, qp := quietPeriod arg }, .ready) := by
  simp [onEvent, hlst]

/-- While Idle every event but BEGIN leaves the machine as it is. -/
theorem SourceBlock.onEvent_of_idle {S : SourceBlock} (hlst : S.lst = .idle) {i : Instr} (hno : ∀ a, i ≠ .begin a) :
    S.onEvent i = (S, idleResult i) := by
  cases i with
  | begin a => exact absurd rfl (hno a)
  | _ => simp [onEvent, hlst, idleResult]

/-! ### The source's timer (R25, 40_frame_assembler.md R94, R96) -/

theorem SourceBlock.onTick_of_no_timer {S : SourceBlock} (h : S.timer = Option.none) : S.onTick = (S, .none) := by
  simp [onTick, h]

theorem SourceBlock.onTick_countDown {S : SourceBlock} {t : Ticks} (h : S.timer = some t) (ht : 1 < t.toNat) :
    S.onTick = ({ S with timer := some (t - 1) }, .none) := by
  simp [onTick, h, ht]

theorem SourceBlock.onTick_timeout {S : SourceBlock} {t : Ticks} (h : S.timer = some t) (ht : t.toNat ≤ 1) :
    S.onTick = ({ S with bits := [], timer := Option.none }, runResult S.bits) := by
  simp [onTick, h, Nat.not_lt.mpr ht]

/-! ### The relation of R28, and the moves that keep it -/

/-- The buffer's part of the relation is that the buffer holds the first bits of the list. -/
theorem Abstracts.holdsFirst {b : Block} {S : SourceBlock} (h : Abstracts b S) : b.HoldsFirst S.bits :=
  ⟨h.cnt, fun j hj => h.buf j (by rw [h.cnt]; exact hj)⟩

theorem Abstracts.of_holdsFirst {b : Block} {S : SourceBlock} (hlst : b.lst = S.lst) (hqp : b.qp = S.qp)
    (hholds : b.HoldsFirst S.bits) (htimer : S.timer = if b.armed then some b.tmr else Option.none) : Abstracts b S :=
  ⟨hlst, hqp, hholds.1, fun j hj => hholds.2 j (by rwa [← hholds.1]), htimer⟩

/-- A cleared block stands for an empty list and no timer. -/
theorem Abstracts.of_cleared {b : Block} {S : SourceBlock} (hb : b.Cleared) (hlst : b.lst = S.lst) (hqp : b.qp = S.qp)
    (hbits : S.bits = []) (htimer : S.timer = Option.none) : Abstracts b S := by
  obtain ⟨-, hcnt, harmed, -⟩ := hb
  exact .of_holdsFirst hlst hqp ⟨by simp [hcnt, hbits], by simp [hbits]⟩ (by simp [harmed, htimer])

theorem abstracts_reset : Abstracts Block.reset SourceBlock.reset :=
  .of_cleared Block.reset_cleared rfl rfl rfl rfl

theorem Abstracts.edge {b : Block} {S : SourceBlock} (h : Abstracts b S) (bit : Bool) :
    Abstracts (b.edge bit) (S.onEdge bit) :=
  .of_holdsFirst ((b.edge_lst bit).trans h.lst) ((b.edge_qp bit).trans h.qp) (h.holdsFirst.edge bit)
    (congrArg some h.qp.symm)

/-- Two outcomes of one input agree: the same result, and related machines. -/
def OutcomesAgree (p : Block × Result) (q : SourceBlock × Result) : Prop := p.2 = q.2 ∧ Abstracts p.1 q.1

theorem Abstracts.agree_tick {b : Block} {S : SourceBlock} (h : Abstracts b S) (hlst : b.lst = .listening) :
    OutcomesAgree (b.react .tick) S.onTick := by
  have htimer := h.timer
  by_cases harmed : b.armed = true
  · rw [if_pos harmed] at htimer
    by_cases htmr : 1 < b.tmr.toNat
    · rw [Block.react_tick_countDown hlst harmed htmr, SourceBlock.onTick_countDown htimer htmr]
      exact ⟨rfl, .of_holdsFirst h.lst h.qp h.holdsFirst (if_pos harmed).symm⟩
    · have htmr := Nat.le_of_not_lt htmr
      rw [Block.react_tick_timeout hlst harmed htmr, SourceBlock.onTick_timeout htimer htmr]
      exact ⟨h.holdsFirst.timeoutResult, .of_cleared b.clear_cleared h.lst h.qp rfl rfl⟩
  · rw [if_neg harmed] at htimer
    rw [Block.react_tick_of_no_timer fun hpending => harmed hpending.2, SourceBlock.onTick_of_no_timer htimer]
    exact ⟨rfl, h⟩

theorem Abstracts.agree_of_idle {b : Block} {S : SourceBlock} (h : Abstracts b S) (hlst : b.lst = .idle) (i : Instr) :
    OutcomesAgree (b.react i) (S.onEvent i) := by
  have hlst' : S.lst = .idle := h.lst.symm.trans hlst
  by_cases hbegin : ∃ arg, i = .begin arg
  · obtain ⟨arg, rfl⟩ := hbegin
    rw [Block.react_begin_of_idle hlst, SourceBlock.onEvent_begin_of_idle hlst']
    exact ⟨rfl, .of_holdsFirst rfl rfl h.holdsFirst h.timer⟩
  · have hno := not_exists.mp hbegin
    rw [Block.react_of_idle hlst hno, SourceBlock.onEvent_of_idle hlst' hno]
    exact ⟨rfl, h⟩

theorem Abstracts.agree_edgeEvent {b : Block} {S : SourceBlock} (h : Abstracts b S) (hlst : b.lst = .listening)
    (bit : Bool) : OutcomesAgree (b.react (edgeEvent bit)) (S.onEvent (edgeEvent bit)) := by
  rw [Block.react_edgeEvent hlst, SourceBlock.onEvent_edgeEvent (h.lst.symm.trans hlst)]
  exact ⟨rfl, h.edge bit⟩

theorem Abstracts.agree_gap {b : Block} {S : SourceBlock} (h : Abstracts b S) (hlst : b.lst = .listening) {i : Instr}
    (hgap : isGapEvent i = true) (htick : i ≠ .tick) : OutcomesAgree (b.react i) (S.onEvent i) := by
  rw [Block.react_gap hlst hgap fun hi => absurd hi htick,
    SourceBlock.onEvent_gap (h.lst.symm.trans hlst) hgap htick]
  exact ⟨rfl, h⟩

theorem Abstracts.agree_of_listening {b : Block} {S : SourceBlock} (h : Abstracts b S) (hlst : b.lst = .listening)
    (i : Instr) : OutcomesAgree (b.react i) (S.onEvent i) := by
  have hlst' : S.lst = .listening := h.lst.symm.trans hlst
  cases i with
  | d0 => exact h.agree_edgeEvent hlst false
  | d1 => exact h.agree_edgeEvent hlst true
  | tick =>
    rw [SourceBlock.onEvent_tick hlst']
    exact h.agree_tick hlst
  | stop =>
    rw [Block.react_stop_of_listening hlst, SourceBlock.onEvent_stop hlst']
    exact ⟨rfl, .of_cleared (b.clear_cleared.with_lst_qp .idle b.qp) rfl h.qp rfl rfl⟩
  | _ => exact h.agree_gap hlst rfl nofun

theorem Abstracts.agree_react {b : Block} {S : SourceBlock} (h : Abstracts b S) (i : Instr) :
    OutcomesAgree (b.react i) (S.onEvent i) := by
  cases hlst : b.lst with
  | idle => exact h.agree_of_idle hlst i
  | listening => exact h.agree_of_listening hlst i

theorem Abstracts.agree_present {b : Block} {S : SourceBlock} (h : Abstracts b S) (i : Input) :
    OutcomesAgree (b.present i) (S.present i) := by
  cases i with
  | reset => exact ⟨rfl, abstracts_reset⟩
  | event w =>
    rw [Block.present_event]
    exact h.agree_react (decode w)

/-- Related machines yield the same results in every run. -/
theorem Abstracts.results_eq {b : Block} {S : SourceBlock} (h : Abstracts b S) (is : List Input) :
    b.results is = S.results is := by
  induction is generalizing b S with
  | nil => rfl
  | cons i is ih =>
    obtain ⟨hresult, hnext⟩ := h.agree_present i
    rw [Block.results, SourceBlock.results, hresult, ih hnext]

/-- Settles O38: the reset states are related, and one input leads related machines to agreeing outcomes. -/
theorem boundedBufferRefinesTheUnboundedList : Obligations.BoundedBufferRefinesTheUnboundedList :=
  ⟨abstracts_reset, fun _ _ i h => h.agree_present i, abstracts_reset.results_eq⟩

end Sys2Proof.Machine
end

section
/-! PROOFS. Ticks and real time (70_reset_and_hazards.md R189): how many ticks lie in a gap, and what two edges on the
wires leave in the block (R182). The time base is the model's reading (log entry 8). -/

namespace Sys2Proof.Machine

/-! ### The boundaries of the time base -/

/-- The `n`-th boundary, at `ph + (n - 1) * T`, is at or before `t`. -/
theorem le_boundariesUpTo_iff {T ph : Nat} (hph : ph < T) (t n : Nat) :
    n ≤ boundariesUpTo T ph t ↔ ph + n * T ≤ t + T := by
  have hcount : boundariesUpTo T ph t = (t + T - ph) / T := by
    unfold boundariesUpTo
    split
    case isTrue hlt => rw [Nat.div_eq_of_lt (by omega)]
    case isFalse hge => rw [← Nat.add_div_right _ (by omega)]; congr 1; omega
  rw [hcount, Nat.le_div_iff_mul_le (by omega)]
  omega

/-- The first boundary after `t` is later than `t`, and not by more than a period. -/
theorem first_boundary_after {T ph : Nat} (hph : ph < T) (t : Nat) :
    t < ph + boundariesUpTo T ph t * T ∧ ph + boundariesUpTo T ph t * T ≤ t + T := by
  have hle := (le_boundariesUpTo_iff hph t _).mp le_rfl
  have hlt := mt (le_boundariesUpTo_iff hph t (boundariesUpTo T ph t + 1)).mpr (by omega)
  rw [Nat.succ_mul] at hlt
  exact ⟨by omega, hle⟩

/-- Up to a boundary there are that boundary and those before it. -/
theorem boundariesUpTo_boundary {T ph : Nat} (hph : ph < T) (n : Nat) :
    boundariesUpTo T ph (ph + n * T) = n + 1 := by
  rw [boundariesUpTo, if_neg (by omega), Nat.add_sub_cancel_left, Nat.mul_div_cancel _ (by omega)]

/-! ### Ticks in a gap -/

@[simp] theorem ticksBetween_self (T ph t : Nat) : ticksBetween T ph t t = 0 := Nat.sub_self _

section

variable {T ph t u q : Nat} (hph : ph < T)
include hph

theorem le_ticksBetween (htu : t ≤ u) (hgap : q * T ≤ u - t) : q ≤ ticksBetween T ph t u := by
  have hle := (first_boundary_after hph t).2
  have hmany : q + boundariesUpTo T ph t ≤ boundariesUpTo T ph u := by
    rw [le_boundariesUpTo_iff hph, Nat.add_mul]
    omega
  unfold ticksBetween
  omega

theorem ticksBetween_lt (hq : 1 ≤ q) (hgap : u - t ≤ (q - 1) * T) : ticksBetween T ph t u < q := by
  have hlt := (first_boundary_after hph t).1
  have hfew : ¬q - 1 + (boundariesUpTo T ph t + 1) ≤ boundariesUpTo T ph u := by
    rw [le_boundariesUpTo_iff hph, Nat.add_mul, Nat.succ_mul]
    omega
  unfold ticksBetween
  omega

theorem nthBoundaryAfter_bounds (hq : 1 ≤ q) :
    t + (q - 1) * T < nthBoundaryAfter T ph t q ∧ nthBoundaryAfter T ph t q ≤ t + q * T := by
  obtain ⟨hlt, hle⟩ := first_boundary_after hph t
  have hlast : q * T = (q - 1) * T + T := by rw [← Nat.succ_mul, Nat.succ_eq_add_one, Nat.sub_add_cancel hq]
  rw [nthBoundaryAfter, Nat.add_mul, hlast]
  omega

theorem ticksBetween_nthBoundaryAfter (hq : 1 ≤ q) : ticksBetween T ph t (nthBoundaryAfter T ph t q) = q := by
  rw [ticksBetween, nthBoundaryAfter, boundariesUpTo_boundary hph]
  omega

end

/-- Settles O44, by where the first boundary after `t` lies. -/
theorem tickCountsOfRealTimeGaps : Obligations.TickCountsOfRealTimeGaps := by
  intro T ph t u q hph htu hq
  obtain ⟨hafter, hbefore⟩ := nthBoundaryAfter_bounds (t := t) hph hq
  exact ⟨le_ticksBetween hph htu, ticksBetween_lt hph hq, hafter, hbefore, ticksBetween_nthBoundaryAfter hph hq⟩

/-! ### Edges on the wires (R182, R189) -/

theorem isGapEvent_of_mem_ticks {n : Nat} : ∀ i ∈ List.replicate n Instr.tick, isGapEvent i = true := fun i hi => by
  rw [List.eq_of_mem_replicate hi]
  rfl

theorem tickCount_ticks (n : Nat) : tickCount (List.replicate n .tick) = n := List.count_replicate_self

/-- With no timer pending the ticks before an edge do nothing. -/
theorem Block.after_waitInputs_of_empty {b : Block} (hphase : b.phase = .empty) (n : Nat) :
    b.after (waitInputs n) = b := by
  obtain ⟨hlst, hunarmed⟩ := b.phase_eq_empty_iff.mp hphase
  exact (run_gap_of_unarmed hlst hunarmed isGapEvent_of_mem_ticks).1

/-- Two edges on the wires are two bits with the ticks of their gap between them. -/
theorem Block.after_wireInputs_two {b : Block} (hphase : b.phase = .empty) (T ph now t u : Nat) (x y : Bool) :
    b.after (wireInputs T ph now [(t, x), (u, y)] u) =
      b.after (bitsInputs [x] ++ waitInputs (ticksBetween T ph t u) ++ bitsInputs [y]) := by
  have hnone : waitInputs 0 = [] := rfl
  simp only [wireInputs, ticksBetween_self, hnone, List.append_nil, List.append_assoc]
  rw [after_append, after_waitInputs_of_empty hphase]

/-- From phase EMPTY a run of edges is what the buffer holds. -/
theorem Block.holdsFirst_after_bitsInputs_of_empty {b : Block} (h : b.Inv) (hphase : b.phase = .empty) (L : List Bool) :
    (b.after (bitsInputs L)).HoldsFirst L := by
  obtain ⟨hlst, hunarmed⟩ := b.phase_eq_empty_iff.mp hphase
  obtain ⟨-, hcnt, -⟩ := h.cleared_of_unarmed hunarmed
  exact HoldsFirst.after_bitsInputs (M := []) ⟨by simp [hcnt], by simp⟩ hlst L

theorem Block.HoldsFirst.one_bit {b : Block} {y : Bool} (h : b.HoldsFirst [y]) : b.cnt = 1 ∧ b.cell 0 = y := by
  obtain ⟨hcnt, hcell⟩ := h
  exact ⟨BitVec.eq_of_toNat_eq hcnt, (Option.some.inj (hcell 0 (by simp))).symm⟩

theorem Block.HoldsFirst.two_bits {b : Block} {x y : Bool} (h : b.HoldsFirst [x, y]) :
    b.cnt = 2 ∧ b.cell 0 = x ∧ b.cell 1 = y := by
  obtain ⟨hcnt, hcell⟩ := h
  exact ⟨BitVec.eq_of_toNat_eq hcnt, (Option.some.inj (hcell 0 (by simp))).symm,
    (Option.some.inj (hcell 1 (by simp))).symm⟩

/-- Settles O45: the gap holds QP ticks or more, or fewer, and the quiet period separates the runs accordingly (R95). -/
theorem edgesOnTheWiresSeparateOrMerge : Obligations.EdgesOnTheWiresSeparateOrMerge := by
  intro b T ph now t u x y h hphase hph _ htu
  obtain ⟨hmerge, hseparate⟩ := quietPeriodAloneSeparatesRuns b [x] [y]
    (List.replicate (ticksBetween T ph t u) .tick) h hphase (List.cons_ne_nil x []) (List.cons_ne_nil y [])
    isGapEvent_of_mem_ticks
  rw [tickCount_ticks, ← waitInputs] at hmerge hseparate
  rw [Block.after_wireInputs_two hphase]
  refine ⟨fun hfar => ?_, fun hnear => ?_⟩
  · rw [(hseparate (le_ticksBetween hph htu hfar)).1]
    exact (Block.holdsFirst_after_bitsInputs_of_empty h hphase [y]).one_bit
  · rw [(hmerge (ticksBetween_lt hph h.v6.1 hnear)).1]
    exact (Block.holdsFirst_after_bitsInputs_of_empty h hphase [x, y]).two_bits

end Sys2Proof.Machine
end

section
/-! PROOFS. Several readers (60_exceptions.md R165, R166): a step of one is a modification of its own entry of the list,
so steps of different readers commute and a run of the system is a run of each reader. -/

namespace Sys2Proof.Machine

/-- The state a step leads to: there is always one (R167). -/
def State.stepped (s : State) : State where
  block  := (s.block.present (s.inputs.headD (.event idleWord))).1
  inputs := s.inputs.tail
  result := (s.block.present (s.inputs.headD (.event idleWord))).2

theorem step_eq_next_stepped (s : State) : step s = .next s.stepped := step_eq_finish_present s

/-- A step of the system modifies the entry of its reader, of which there is none past the end of the list (log entry 9). -/
theorem stepInstance_eq_modify (k : Nat) (sys : List State) :
    stepInstance k sys = .next (sys.modify k State.stepped) := by
  cases hk : sys[k]? with
  | none =>
    rw [stepInstance_past_end hk, List.modify_eq_self (List.getElem?_eq_none_iff.mp hk)]
  | some s =>
    rw [stepInstance_of_step hk (step_eq_next_stepped s), List.modify_eq_set_getElem?, hk]
    rfl

/-- Settles O43: modifications of different entries of a list commute. -/
theorem instancesShareNothing : Obligations.InstancesShareNothing := by
  intro k sys
  refine ⟨_, stepInstance_eq_modify k sys, List.length_modify .., fun j hj => List.getElem?_modify_ne _ _ hj.symm,
    fun s hs => ⟨_, step_eq_next_stepped s, ?_⟩,
    fun j hj => ⟨_, _, stepInstance_eq_modify j _, stepInstance_eq_modify j sys, ?_⟩⟩
  · simp [hs]
  · rw [stepInstance_eq_modify, List.modify_modify_ne _ _ _ hj]

theorem runAlone_eq_iterate (n : Nat) (s : State) : runAlone n s = .next (State.stepped^[n] s) := by
  induction n generalizing s with
  | zero => rfl
  | succ n ih => rw [runAlone_succ (step_eq_next_stepped s), ih, Function.iterate_succ_apply]

/-- In any order of steps every reader takes as many as the order names it. -/
theorem runInstances_iterates (order : List Nat) (sys : List State) :
    ∃ sys', runInstances order sys = .next sys' ∧ sys'.length = sys.length ∧
      ∀ k, sys'[k]? = sys[k]?.map State.stepped^[order.count k] := by
  induction order generalizing sys with
  | nil => exact ⟨sys, rfl, rfl, fun k => by simp⟩
  | cons j order ih =>
    obtain ⟨sys', hrun, hlength, hentry⟩ := ih (sys.modify j State.stepped)
    rw [List.length_modify] at hlength
    refine ⟨sys', (runInstances_cons (stepInstance_eq_modify j sys)).trans hrun, hlength, fun k => ?_⟩
    rw [hentry, List.getElem?_modify]
    by_cases hjk : j = k
    · subst hjk
      rw [List.count_cons_self, Function.iterate_succ]
      simp [Function.comp_def]
    · rw [List.count_cons_of_ne hjk]
      simp [hjk]

theorem resetSystem_getElem? (ports : List (List Input)) (k : Nat) :
    (resetSystem ports)[k]? = ports[k]?.map fun p => { State.reset with inputs := p } := List.getElem?_map ..

/-- Settles O47: reset puts the reset state on each port, and a run iterates the step of each reader. -/
theorem instancesStartInResetAndRunAsIfAlone : Obligations.InstancesStartInResetAndRunAsIfAlone := by
  refine ⟨fun ports => ⟨List.length_map .., fun k p hp => ?_⟩, fun order sys => ?_⟩
  · exact ⟨{ State.reset with inputs := p }, by rw [resetSystem_getElem?, hp]; rfl, rfl, rfl, rfl⟩
  · obtain ⟨sys', hrun, hlength, hentry⟩ := runInstances_iterates order sys
    refine ⟨sys', hrun, hlength, fun k s hs => ⟨_, runAlone_eq_iterate _ s, ?_⟩⟩
    rw [hentry, hs]
    rfl

end Sys2Proof.Machine
end

section
/-! PROOFS. The step of the machine (00_scope.md R7, 30_encoding.md R81): which event it runs, for each head of the event
port. -/

namespace Sys2Proof.Machine

theorem step_of_event {s : State} {w : EventWord} {rest : List Input} (hin : s.inputs = .event w :: rest) :
    step s = exec (decode w) { s with inputs := rest } := by
  simp only [step, State.nextInput, hin]

theorem step_of_reset {s : State} {rest : List Input} (hin : s.inputs = .reset :: rest) :
    step s = { s with inputs := rest }.applyReset := by
  simp only [step, State.nextInput, hin]

theorem step_of_no_input {s : State} (hin : s.inputs = []) : step s = exec .nop s := by
  simp only [step, State.nextInput, hin, decode_idleWord]

/-- A row of 24 bits has room for the event word, so it presents the word it was made from. -/
theorem withFetchWord_inputs (s : State) (w : EventWord) :
    (s.withFetchWord 24 w.toNat).inputs = .event w :: s.inputs := by
  have hfits : w.toNat % 2 ^ 24 = w.toNat := Nat.mod_eq_of_lt (by have := w.isLt; omega)
  rw [State.withFetchWord, State.presentTableWord, hfits, BitVec.ofNat_toNat, BitVec.setWidth_eq]

/-- Settles O23, by the head of the event port; a word put in front of the inputs is the head. -/
theorem stepRunsTheDecodedEvent : Obligations.StepRunsTheDecodedEvent := by
  refine ⟨fun _ _ _ => step_of_event, fun _ _ => step_of_reset, fun _ => step_of_no_input, fun s i => ?_⟩
  rw [step_of_event (withFetchWord_inputs s (encode i)), decode_encode]
  rfl

end Sys2Proof.Machine
end
